-- ==== Sys2Proof/Word.lean ====
section
/-! DEFINITION. The word sizes of the block (00_scope.md R14; 20_memory.md R40; 41_framer.md R87). -/

namespace Sys2Proof

/-- An expander byte, a command byte or a data byte (R14). -/
abbrev Byte := BitVec 8

/-- A nibble (R14). -/
abbrev Nibble := BitVec 4

/-- One bit: a flag operand, or a register-select level (R87, R96). -/
abbrev Bit := BitVec 1

/-- A request word (R14, R58). -/
abbrev ReqWord := BitVec 16

/-- A DDRAM address (R14, R40). -/
abbrev DdAddr := BitVec 7

/-- A device address on the two-wire bus (R40). -/
abbrev BusAddr := BitVec 7

end Sys2Proof
end

