-- ==== Sys2Proof/Config.lean ====
section
/-! DEFINITION. What one block is configured with (00_scope.md R11, 10_state.md R25), and the free values:
opaque constants without a body, so that no proof can see a value the spec leaves open. -/

namespace Sys2Proof

/-- The layout of the expander byte (R11, R26): the positions of the four control lines in bits 3-0, the data bits, and the backlight
level. -/
structure Wiring where
  /-- `RS_POS`: register-select. -/
  rs : Fin 4
  /-- `RW_POS`: read/write. -/
  rw : Fin 4
  /-- `EN_POS`: enable. -/
  en : Fin 4
  /-- `BL_POS`: backlight. -/
  bl : Fin 4
  /-- `DATA_HI`: the highest bit of the data nibble. -/
  dataHi : Fin 8 := 7
  /-- `DATA_LO`: the lowest bit of the data nibble. -/
  dataLo : Fin 8 := 4
  /-- `BL_LEVEL`: the backlight level of every byte (92 D26). -/
  blLevel : Bit := 1
  deriving DecidableEq, Repr, Inhabited

/-- The HD44780 command base values and flag positions from which the encoder builds a command byte (R11; 30_encoding.md R64). The
defaults are the table of R64. -/
structure CommandTable where
  /-- Base of clear display. -/
  clear : Byte := 0x01
  /-- Base of return home. -/
  home : Byte := 0x02
  /-- Base of entry mode set. -/
  entry : Byte := 0x04
  /-- Position of I/D. -/
  idPos : Fin 8 := 1
  /-- Position of S. -/
  sPos : Fin 8 := 0
  /-- Base of display on/off control. -/
  dispctl : Byte := 0x08
  /-- Position of D. -/
  dPos : Fin 8 := 2
  /-- Position of C. -/
  cPos : Fin 8 := 1
  /-- Position of B. -/
  bPos : Fin 8 := 0
  /-- Base of cursor or display shift. -/
  shift : Byte := 0x10
  /-- Position of S/C. -/
  scPos : Fin 8 := 3
  /-- Position of R/L. -/
  rlPos : Fin 8 := 2
  /-- Base of function set. -/
  funcset : Byte := 0x20
  /-- Position of DL. -/
  dlPos : Fin 8 := 4
  /-- Position of N. -/
  nPos : Fin 8 := 3
  /-- Position of F. -/
  fPos : Fin 8 := 2
  /-- Base of set CGRAM address, which the encoder does not produce (R67). -/
  cgram : Byte := 0x40
  /-- Base of set DDRAM address. -/
  ddram : Byte := 0x80
  deriving DecidableEq, Repr, Inhabited

/-- The parameters fixed for the life of one block (R11, R25). No step writes them. -/
structure Params where
  /-- `DEV_ADDR`, passed unchanged to every `BusWrite` (92 D5, 90 C8). -/
  devAddr : BusAddr
  /-- `TIMEOUT_MS`, handed to the transport with every write; no rule reads it (92 D6). -/
  timeoutMs : Nat
  /-- `DATA_HI`, `DATA_LO`, `RS_POS`, `RW_POS`, `EN_POS`, `BL_POS`, `BL_LEVEL`. -/
  wiring : Wiring
  /-- `ROWS`. -/
  rows : Nat := 2
  /-- `COLS`. -/
  cols : Nat := 16
  /-- `ROW_BASE[0]`. -/
  rowBase0 : DdAddr := 0x00
  /-- `ROW_BASE[1]`. -/
  rowBase1 : DdAddr := 0x40
  /-- The HD44780 command base values and flag positions. -/
  commands : CommandTable := {}
  deriving DecidableEq, Repr, Inhabited

/-- How the transport answers one `BusWrite` (R13). -/
inductive BusResult where
  | ok
  | fail
  deriving DecidableEq, Repr, Inhabited

/-- Everything the spec leaves to chance about one `BusWrite`: its result (R13, 93 U14); whether a failing write reached
the expander (60_exceptions.md R124, 93 U2); and, where the write lowers EN while changing the data or RS, whether the
controller takes the new nibble and the new RS (41_framer.md R89, 93 U8). -/
structure Draw where
  result : BusResult
  took : Bool
  newNibble : Bool
  newRs : Bool
  deriving DecidableEq, Repr, Inhabited

/-- `LCD.half` (10_state.md R31): the next latched nibble is a high one, or it completes a byte with this one. -/
inductive Half where
  | hi
  | lo (n : Nibble) (rs : Bit)
  deriving DecidableEq, Repr, Inhabited

/-- The controller's registers, as far as its instructions name them (30_encoding.md R64, 42_command_encoder.md R96 to R100). -/
structure LcdRegs where
  /-- The address counter (R50, R86). -/
  ac : DdAddr
  /-- 1 where the address counter addresses DDRAM, 0 where a set-CGRAM command has turned it elsewhere (R64). -/
  acDdram : Bit
  /-- Entry mode I/D: 1 = increment (R64, R96). -/
  entryId : Bit
  /-- Entry mode S: 1 = shift display (R64, R96). -/
  entryS : Bit
  /-- Display on (R97). -/
  dispD : Bit
  /-- Cursor on (R97). -/
  dispC : Bit
  /-- Blink on (R97). -/
  dispB : Bit
  /-- Function set N: 1 = 2 lines (R99). -/
  lines : Bit
  /-- Function set F: 1 = 5x10 dots (R99). -/
  font : Bit
  /-- Net number of positions the display has been shifted to the right (R98, R106). -/
  shift : Int
  deriving DecidableEq, Repr, Inhabited

namespace Config

/-- `DEV_ADDR` of the block after `State.reset` (92 D5: OPEN). -/
opaque devAddr : BusAddr

/-- `TIMEOUT_MS` of the block after `State.reset` (92 D6: OPEN). -/
opaque timeoutMs : Nat

/-- `CMD_WAIT(cmd)` in microseconds: a host obligation no rule reads (70_reset_and_hazards.md R152: OPEN). -/
opaque cmdWaitMicros : Byte → Nat

/-- The `retries` of the presence check (R143, 91 N5: OPEN). -/
opaque probeRetries : Nat

/-- The `timeoutMs` of the presence check (R143, 91 N5: OPEN). -/
opaque probeTimeoutMs : Nat

/-- The display bit that `setCursor` sends while the host has the display off (93 U17: a parameter of a host model). -/
opaque setCursorDisplay : Bit

/-- The transport's answers that no `State.answers` has fixed, one per write or presence check (R13, 93 U14). -/
opaque draw : Nat → Draw

/-- `EXP` at power-on (R141, 93 U13). -/
opaque powerOnExp : Byte

/-- What the register `OUT` holds before the first write (10_state.md R23: "Reset value: none"; 93 U16). -/
opaque powerOnOut : Byte

/-- `LCD.half` at power-on (R141, 93 U1). -/
opaque powerOnHalf : Half

/-- The controller's registers where the spec leaves them open (93 U5 to U7). -/
opaque anyRegs : Nat → LcdRegs

/-- DDRAM contents where the spec leaves them open (93 U5 to U7). -/
opaque anyDdram : Nat → DdAddr → Byte

/-- The address counter where a move leaves the 7 bits of a DDRAM address, or where it is in no DDRAM (20_memory.md R50; R14). -/
opaque anyAddr : Nat → DdAddr

/-- The display shift after a data byte with S = 1, whose direction the spec does not state (R64, R96). -/
opaque anyShift : Nat → Int

end Config

end Sys2Proof
end

