-- ==== Sys2Proof/Syntax.lean ====
section
/-! DEFINITION. The instructions: one constructor per row of spec/opcode_table.json, and the assembler's lines
(30_encoding.md R68, R69). Every operand is exactly as wide as its field. -/

namespace Sys2Proof

/-- The ten requests the host presents to the block (R59, R60) and the eight command bytes the block sends to the
HD44780 controller (R64). A field named `dc` holds the bits R64 marks "-" (don't care). -/
inductive Instr where
  /-- `NIB n` (41_framer.md R84). -/
  | nib (n : Nibble)
  /-- `CMD b` (R85). -/
  | cmd (b : Byte)
  /-- `DATA b` (R86). -/
  | data (b : Byte)
  /-- `CLEAR` (42_command_encoder.md R102). -/
  | clear
  /-- `HOME` (R103). -/
  | home
  /-- `ENTRY id, s` (R104). -/
  | entry (id s : Bit)
  /-- `DISPCTL d, c, b` (R105). -/
  | dispctl (d c b : Bit)
  /-- `SHIFT sc, rl` (R106). -/
  | shift (sc rl : Bit)
  /-- `FUNCSET dl, nl, f` (R107). -/
  | funcset (dl nl f : Bit)
  /-- `SETDDRAM row, col` (R108). -/
  | setddram (row : Bit) (col : Nibble)
  /-- Clear display, 0000 0001 (R64, R94). -/
  | hdClear
  /-- Return home, 0000 001- (R64, R95). -/
  | hdHome (dc : Bit)
  /-- Entry mode set, 0000 01 I/D S (R64, R96). -/
  | hdEntry (id s : Bit)
  /-- Display on/off control, 0000 1 D C B (R64, R97). -/
  | hdDispctl (d c b : Bit)
  /-- Cursor or display shift, 0001 S/C R/L - - (R64, R98). -/
  | hdShift (sc rl : Bit) (dc : BitVec 2)
  /-- Function set, 001 DL N F - - (R64, R99). -/
  | hdFuncset (dl nl f : Bit) (dc : BitVec 2)
  /-- Set CGRAM address, 01 aaaaaa (R64, R67). -/
  | hdSetCgram (acg : BitVec 6)
  /-- Set DDRAM address, 1 aaaaaaa (R64, R100). -/
  | hdSetDdram (add : DdAddr)
  deriving DecidableEq, Repr

/-- One line of assembler: a request with numeral operands (R68), or a pseudo-instruction (R69). The operands are numbers
as written, so a line can be out of range. -/
inductive Asm where
  | nib (n : Nat)
  | cmd (b : Nat)
  | data (b : Nat)
  | clear
  | home
  | entry (id s : Nat)
  | dispctl (d c b : Nat)
  | shift (sc rl : Nat)
  | funcset (dl nl f : Nat)
  | setddram (row col : Nat)
  | dispon (c b : Nat)
  | dispoff
  | cursorl
  | cursorr
  | scrolll
  | scrollr
  | func4bit2l
  | entryinc
  | char (code : Nat)
  | pos (row col : Nat)
  deriving DecidableEq, Repr

end Sys2Proof
end

