-- ==== Sys2Proof/WellFormed.lean ====
section
/-! DEFINITION. Well-formedness. Instr's operands are exactly as wide as their fields (30_encoding.md R60), so an
ill-formed instruction cannot be built; the checks with content are the assembler's operand ranges (R68) and the
parameters (00_scope.md R11). -/

namespace Sys2Proof

/-- Every instruction is well-formed: the width of each operand is its type (R60: "each field is read as `zext` of its
bits"). -/
def Instr.wellFormed (_ : Instr) : Bool := true

/-- The operand ranges of R68 and R69; "an operand outside its range is an assembly error". -/
def Asm.wellFormed : Asm → Bool
  | .nib n => n ≤ 15
  | .cmd b => b ≤ 255
  | .data b => b ≤ 255
  | .clear => true
  | .home => true
  | .entry id s => id ≤ 1 && s ≤ 1
  | .dispctl d c b => d ≤ 1 && c ≤ 1 && b ≤ 1
  | .shift sc rl => sc ≤ 1 && rl ≤ 1
  | .funcset dl nl f => dl ≤ 1 && nl ≤ 1 && f ≤ 1
  | .setddram row col => row ≤ 1 && col ≤ 15
  | .dispon c b => c ≤ 1 && b ≤ 1
  | .dispoff => true
  | .cursorl => true
  | .cursorr => true
  | .scrolll => true
  | .scrollr => true
  | .func4bit2l => true
  | .entryinc => true
  | .char code => code ≤ 255
  | .pos row col => row ≤ 1 && col ≤ 15

/-- The four positions "are distinct and together are exactly {0, 1, 2, 3}" (R11); four distinct members of `Fin 4` are
all of it. The data bits and the backlight level have R11's values. -/
def Wiring.wellFormed (p : Wiring) : Bool :=
  p.rs ≠ p.rw && p.rs ≠ p.en && p.rs ≠ p.bl && p.rw ≠ p.en && p.rw ≠ p.bl && p.en ≠ p.bl && p.dataHi = 7 && p.dataLo = 4 &&
    p.blLevel = 1

/-- The parameters to which R11 gives a value have it; `DEV_ADDR`, `TIMEOUT_MS` and the control-line positions are open. -/
def Params.wellFormed (p : Params) : Bool :=
  p.wiring.wellFormed && p.rows = 2 && p.cols = 16 && p.rowBase0 = 0x00 && p.rowBase1 = 0x40 && p.commands = {}

end Sys2Proof
end

