-- ==== Sys2Proof/Decode.lean ====
section
/-! DEFINITION. The decoder and the encoder of the two instruction encodings: the 16-bit request word (30_encoding.md R57 to
R62) and the HD44780's 8-bit command byte (R64, R65). -/

namespace Sys2Proof

/-- A word of one of the two encodings of spec/opcode_table.json. -/
inductive Code where
  /-- Format `REQ16`: what the host presents to the block. -/
  | request (w : ReqWord)
  /-- Format `HD44780_CMD8`: what the block delivers to the controller. -/
  | command (b : Byte)
  deriving DecidableEq, Repr

/-- Why a word decodes to no instruction. -/
inductive DecodeError where
  /-- A request word whose `OP` is 0x0 or 0xB..0xF (R61). -/
  | reservedOp
  /-- A request word with a legal `OP` and `RES` not 0 (R61). -/
  | reservedRes
  /-- A request word with a legal `OP`, `RES` = 0 and a reserved `ARG` bit set (R61). -/
  | reservedArg
  /-- The command byte 0x00, which is in no family (R65). -/
  | noFamily
  deriving DecidableEq, Repr

/-- `v[lo+n-1:lo]` (R12). -/
def field {w : Nat} (v : BitVec w) (lo n : Nat) : BitVec n := v.extractLsb' lo n

/-- Which of R61's reasons makes a word illegal that matches no row. -/
def whyIllegal (w : ReqWord) : DecodeError :=
  if field w 12 4 = 0x0 ∨ 0xB ≤ field w 12 4 then .reservedOp
  else if field w 8 4 ≠ 0 then .reservedRes
  else .reservedArg

/-- `decode(w)` of R62, row by row; the last case is its `Illegal`, with the reason. -/
def decodeRequest (w : ReqWord) : Except DecodeError Instr :=
  if w &&& 0xFFF0 = 0x1000 then .ok (.nib (field w 0 4))
  else if w &&& 0xFF00 = 0x2000 then .ok (.cmd (field w 0 8))
  else if w &&& 0xFF00 = 0x3000 then .ok (.data (field w 0 8))
  else if w = 0x4000 then .ok .clear
  else if w = 0x5000 then .ok .home
  else if w &&& 0xFFFC = 0x6000 then .ok (.entry (field w 1 1) (field w 0 1))
  else if w &&& 0xFFF8 = 0x7000 then .ok (.dispctl (field w 2 1) (field w 1 1) (field w 0 1))
  else if w &&& 0xFFF3 = 0x8000 then .ok (.shift (field w 3 1) (field w 2 1))
  else if w &&& 0xFFE3 = 0x9000 then .ok (.funcset (field w 4 1) (field w 3 1) (field w 2 1))
  else if w &&& 0xFFB0 = 0xA000 then .ok (.setddram (field w 6 1) (field w 0 4))
  else .error (whyIllegal w)

/-- The instruction a command byte is for the controller, by the masks of R64's table. -/
def decodeCommand (b : Byte) : Except DecodeError Instr :=
  if b &&& 0x80 = 0x80 then .ok (.hdSetDdram (field b 0 7))
  else if b &&& 0xC0 = 0x40 then .ok (.hdSetCgram (field b 0 6))
  else if b &&& 0xE0 = 0x20 then .ok (.hdFuncset (field b 4 1) (field b 3 1) (field b 2 1) (field b 0 2))
  else if b &&& 0xF0 = 0x10 then .ok (.hdShift (field b 3 1) (field b 2 1) (field b 0 2))
  else if b &&& 0xF8 = 0x08 then .ok (.hdDispctl (field b 2 1) (field b 1 1) (field b 0 1))
  else if b &&& 0xFC = 0x04 then .ok (.hdEntry (field b 1 1) (field b 0 1))
  else if b &&& 0xFE = 0x02 then .ok (.hdHome (field b 0 1))
  else if b = 0x01 then .ok .hdClear
  else .error .noFamily

/-- The decoder: total on every word of either encoding. -/
def decode : Code → Except DecodeError Instr
  | .request w => decodeRequest w
  | .command b => decodeCommand b

/-- A command family of the HD44780 (R64). -/
inductive Family where
  | clear | home | entry | dispctl | shift | funcset | setCgram | setDdram
  deriving DecidableEq, Repr

/-- "The family of a command byte is fixed by its highest set bit" (R65); 0x00 is in none. -/
def familyOf (b : Byte) : Option Family :=
  if b.getLsbD 7 then some .setDdram
  else if b.getLsbD 6 then some .setCgram
  else if b.getLsbD 5 then some .funcset
  else if b.getLsbD 4 then some .shift
  else if b.getLsbD 3 then some .dispctl
  else if b.getLsbD 2 then some .entry
  else if b.getLsbD 1 then some .home
  else if b.getLsbD 0 then some .clear
  else none

/-- The family a controller instruction belongs to; a request belongs to none. -/
def instrFamily : Instr → Option Family
  | .hdClear => some .clear
  | .hdHome _ => some .home
  | .hdEntry _ _ => some .entry
  | .hdDispctl _ _ _ => some .dispctl
  | .hdShift _ _ _ => some .shift
  | .hdFuncset _ _ _ _ => some .funcset
  | .hdSetCgram _ => some .setCgram
  | .hdSetDdram _ => some .setDdram
  | .nib _ => none
  | .cmd _ => none
  | .data _ => none
  | .clear => none
  | .home => none
  | .entry _ _ => none
  | .dispctl _ _ _ => none
  | .shift _ _ => none
  | .funcset _ _ _ => none
  | .setddram _ _ => none

/-- The word of an instruction: R60 and R68 for the requests, R64 for the command bytes. -/
def encode : Instr → Code
  | .nib n => .request (0x1000#16 ||| n.setWidth 16)
  | .cmd b => .request (0x2000#16 ||| b.setWidth 16)
  | .data b => .request (0x3000#16 ||| b.setWidth 16)
  | .clear => .request 0x4000#16
  | .home => .request 0x5000#16
  | .entry id s => .request (0x6000#16 ||| id.setWidth 16 <<< 1 ||| s.setWidth 16)
  | .dispctl d c b => .request (0x7000#16 ||| d.setWidth 16 <<< 2 ||| c.setWidth 16 <<< 1 ||| b.setWidth 16)
  | .shift sc rl => .request (0x8000#16 ||| sc.setWidth 16 <<< 3 ||| rl.setWidth 16 <<< 2)
  | .funcset dl nl f => .request (0x9000#16 ||| dl.setWidth 16 <<< 4 ||| nl.setWidth 16 <<< 3 ||| f.setWidth 16 <<< 2)
  | .setddram row col => .request (0xA000#16 ||| row.setWidth 16 <<< 6 ||| col.setWidth 16)
  | .hdClear => .command 0x01#8
  | .hdHome dc => .command (0x02#8 ||| dc.setWidth 8)
  | .hdEntry id s => .command (0x04#8 ||| id.setWidth 8 <<< 1 ||| s.setWidth 8)
  | .hdDispctl d c b => .command (0x08#8 ||| d.setWidth 8 <<< 2 ||| c.setWidth 8 <<< 1 ||| b.setWidth 8)
  | .hdShift sc rl dc => .command (0x10#8 ||| sc.setWidth 8 <<< 3 ||| rl.setWidth 8 <<< 2 ||| dc.setWidth 8)
  | .hdFuncset dl nl f dc =>
      .command (0x20#8 ||| dl.setWidth 8 <<< 4 ||| nl.setWidth 8 <<< 3 ||| f.setWidth 8 <<< 2 ||| dc.setWidth 8)
  | .hdSetCgram acg => .command (0x40#8 ||| acg.setWidth 8)
  | .hdSetDdram add => .command (0x80#8 ||| add.setWidth 8)

/-- The word of spec/opcode_table.json of `nbits` bits with value `w`: 16 bits are a request word, 8 a command byte. -/
def tableCode (nbits w : Nat) : Option Code :=
  if nbits = 16 ∧ w < 2 ^ 16 then some (.request (BitVec.ofNat 16 w))
  else if nbits = 8 ∧ w < 2 ^ 8 then some (.command (BitVec.ofNat 8 w))
  else none

/-- What the decoder reads from the table's word: an instruction, or none where it refuses. -/
def decodeTableWord (nbits w : Nat) : Option Instr :=
  match tableCode nbits w with
  | none => none
  | some c =>
    match decode c with
    | .ok i => some i
    | .error _ => none

end Sys2Proof
end

