-- ==== Sys2Proof/Machine/Params.lean ====
section
/-! DEFINITION. The default of 00_scope.md R11 for the control-line positions, the parameters read by name, and what a clear writes. -/

namespace Sys2Proof.Machine

/-- The default control-line positions of R11 (93 G1: general knowledge, not in source). -/
def defaultWiring : Wiring := { rs := 0, rw := 1, en := 2, bl := 3 }

/-- `ROW_BASE[row]` (R11, 20_memory.md R48): the DDRAM address of a row's first cell. -/
def rowBase (p : Params) (row : Bit) : DdAddr := if row = 1 then p.rowBase1 else p.rowBase0

/-- What clear writes in every DDRAM address: a space (R102; 93 G4, G6). -/
def spaceByte : Byte := 0x20

end Sys2Proof.Machine
end

