-- ==== Sys2Proof/Machine/State.lean ====
section
/-! DEFINITION. The state of the machine as plain data: the block's registers (10_state.md R20 to R24), the state around it
(R28, R31 to R33), the controller's registers (30_encoding.md R64), the constant configuration (R25) and the model's own
interface fields; the state after reset (R36; 70_reset_and_hazards.md R140, R141); and the ways a step can stop. -/

namespace Sys2Proof.Machine

/-- `PHASE` (R20). -/
inductive Phase where
  | idle
  | busy
  deriving DecidableEq, Repr

/-- `STATUS` code 0 (60_exceptions.md R120): every write of the frame returned `ok`. -/
abbrev statusOk : BitVec 2 := 0
/-- `STATUS` code 1 (R120): a `BusWrite` returned `fail`. -/
abbrev statusTransportFailure : BitVec 2 := 1
/-- `STATUS` code 2 (R120): the request word decodes to `Illegal`. -/
abbrev statusIllegalRequest : BitVec 2 := 2

/-- One entry of `TRACE` (R32). -/
structure TraceEntry where
  addr : BusAddr
  byte : Byte
  result : BusResult
  deriving DecidableEq, Repr

/-- `LCD.mode`: the controller's interface width (R31). -/
inductive Mode where
  | unknown
  | bit8
  | bit4
  deriving DecidableEq, Repr

/-- How much of the mandatory sequence `NIB 3, NIB 3, NIB 3, NIB 2` the last completed requests are (70 R145). -/
inductive Stage where
  | start
  | one
  | two
  | three
  deriving DecidableEq, Repr

/-- A byte the controller has assembled, with its register-select (41_framer.md R90). -/
structure Delivered where
  byte : Byte
  rs : Bit
  deriving DecidableEq, Repr

/-- One event at the controller's interface: a delivered byte (R90), or a latch to which the spec gives no meaning. -/
inductive Received where
  | instruction (b : Byte)
  | data (b : Byte)
  | unspecified
  deriving DecidableEq, Repr

/-- What the DDRAM addresses hold that `Ddram.cells` does not list: spaces after a clear (R102), or the `n`-th free contents. -/
inductive Fill where
  | space
  | free (n : Nat)
  deriving DecidableEq, Repr

/-- The controller's display-data RAM (20_memory.md R40): `cells` in canonical form over `fill` (`ddramWf` in Machine/Ops.lean). -/
structure Ddram where
  fill : Fill
  cells : List Host.Cell
  deriving DecidableEq, Repr

/-- The HD44780 as the block's behaviour exposes it (R31, R90) and as its instructions name it (R64). -/
structure Lcd where
  /-- `LCD.mode` (R31). -/
  mode : Mode
  /-- `LCD.half` (R31); outside `BIT4` it does not apply. -/
  half : Half
  /-- False where the spec calls `LCD.half` unknown: at power-on (R141) and after a failure (R150). -/
  halfKnown : Bool
  /-- Progress of the mandatory sequence (R145). -/
  stage : Stage
  /-- The byte delivered and not yet taken (R90). -/
  rx : Option Delivered
  /-- The controller's registers. -/
  regs : LcdRegs
  /-- The display-data RAM. -/
  ddram : Ddram
  /-- Everything received since reset, oldest first: an observation that no step reads. -/
  received : List Received
  deriving DecidableEq, Repr

/-- The host session (R33): `Ready` or `Uninitialized`, and the cursor-visible and cursor-blink flags. -/
structure Session where
  /-- `Ready`. -/
  ready : Bool
  /-- The cursor-visible flag. -/
  cursor : Bit
  /-- The cursor-blink flag. -/
  blink : Bit
  /-- The model's own: the display bit the host last set by `turnOn`, `turnOff` or `setCursor` as it began, or by an `initialize` that
  completed; a failed `initialize` leaves it, and it is 0 at reset, the host counting the display as off (the model's choice,
  log 22). 93 U17 turns on it. -/
  display : Bit
  deriving DecidableEq, Repr

/-- What a host operation reports when it ends: R121's host-level error kinds, or that the block's `STATUS` was
`ILLEGAL_REQUEST`. -/
inductive HostReport where
  | ok
  | deviceNotFound
  | initializationFailed
  | invalidPosition
  | transportFailure
  | illegalRequest
  deriving DecidableEq, Repr

/-- An operation the host can call. -/
inductive HostOp where
  /-- Present `w` when the block is `IDLE` and wait for the status. -/
  | request (w : ReqWord)
  /-- Present `w` without reading `PHASE`: the host breaks its duty of 60_exceptions.md R126 if the block is `BUSY`. It reads no
  `STATUS` and reports nothing, the model's choice (log 22). -/
  | requestNow (w : ReqWord)
  /-- `initialize(transport, showCursor, blinkCursor)` (70 R142 to R147). -/
  | init (show_ blink : Bit)
  /-- `setPosition(row, col)` (42_command_encoder.md R101). -/
  | setPosition (row col : Nat)
  /-- `turnOn` (00_scope.md R6). -/
  | turnOn
  /-- `turnOff` (R6). -/
  | turnOff
  /-- `setCursor(visible, blinking)` (R6). -/
  | setCursor (visible blinking : Bit)
  deriving DecidableEq, Repr

/-- One step of a host operation. -/
inductive HostAct where
  /-- The presence check (R143). -/
  | probe
  /-- `delayMs(ms)` (R133, R144 to R146). -/
  | delay (ms : Nat)
  /-- Present the word to the idle block (R81). -/
  | call (w : ReqWord)
  /-- Read `STATUS`; if it is an error, report it (a transport failure as `onFail`) and give the operation up (R147). -/
  | check (onFail : HostReport)
  /-- Promote the session to `Ready` with these flags (R147). -/
  | promote (show_ blink : Bit)
  /-- Report `InvalidPosition` (R101). -/
  | reject
  /-- Report success. -/
  | done
  deriving DecidableEq, Repr

/-- The whole state. -/
structure State where
  /-- The configuration (R25): not state in the spec, and no step writes it. -/
  params : Params
  /-- `PHASE` (R20). -/
  phase : Phase
  /-- `OBUF[0..3]` (R21). -/
  obuf : Vector Byte 4
  /-- `NW` (R21). -/
  nw : BitVec 3
  /-- `K` (R22). -/
  k : BitVec 3
  /-- `OUT` (R23): the last byte presented to the transport. -/
  out : Byte
  /-- Whether `OUT` has been written since reset: R23 gives it "no value until the first write", and `readOut` faults before then. -/
  outWritten : Bool
  /-- `STATUS` (R24). -/
  status : BitVec 2
  /-- `TRACE` (R32), oldest first. -/
  trace : List TraceEntry
  /-- The request word the host is presenting (R10, R81). -/
  req : Option ReqWord
  /-- `EXP` (R28). -/
  exp : Byte
  /-- `LCD` (R31) and the controller behind it. -/
  lcd : Lcd
  /-- The host session (R33). -/
  session : Session
  /-- The operations the host will call, in order. -/
  todo : List HostOp
  /-- The rest of the operation the host is performing. -/
  task : List HostAct
  /-- What the last ended host operation reported (R121). -/
  report : Option HostReport
  /-- The transport's next answers, as far as they are fixed (R13). -/
  answers : List Draw
  /-- How many answers have been taken from `Config.draw`. -/
  drawn : Nat
  /-- How many of the controller's free values have been taken. -/
  frees : Nat
  deriving DecidableEq, Repr

/-- Why the machine stops with a fault. -/
inductive Fault where
  /-- The host presents a request while `PHASE` is `BUSY` (60_exceptions.md R126): raised by every request's meaning and by
  `step`. The fault is the run's outcome, so it is recorded and never cleared. Safe: the model gives the request no
  meaning. -/
  | overlap
  /-- `BUSY` with `K` not below `NW`, or past `OBUF` (R82 requires `K < NW`): raised by `emit`. No run reaches it. Safe: the
  model stops. -/
  | stepIndexRange
  deriving DecidableEq, Repr

/-- Why a register cannot be read. A read is an observation of a state, which no step makes, so this ends no run. -/
inductive ReadFault where
  /-- `OUT` is read before the first write (R23: "reading it before then faults"; R36: "no value; a read faults"): answered by
  `readOut`. Safe: the spec itself faults the read. -/
  | outUnwritten
  deriving DecidableEq, Repr

/-- Why an instruction has no meaning. -/
inductive Refusal where
  /-- `exec` has no meaning for this mnemonic yet. Safe: the model stops. No arm of `exec` raises it. -/
  | notModelled (mnemonic : String)
  deriving DecidableEq, Repr

namespace State

/-- The machine right after reset, for a block configured with `p` (R36, R140, R141): `PHASE` is `IDLE`, `STATUS` is `OK`,
`TRACE` is empty, `OUT` counts as unwritten, `LCD.mode` is `UNKNOWN`, the session is `Uninitialized`. `OBUF`, `NW` and `K` are
0 (log 4); `EXP`, `LCD.half`, the controller's registers and DDRAM are free values (log 6, log 14, log 20), and so is the byte that the
unwritten `OUT` holds (log 5). That the session's two
flags and the host's own display bit are 0 is the model's choice (log 22). -/
def resetWith (p : Params) : State where
  params := p
  phase := .idle
  obuf := #v[0, 0, 0, 0]
  nw := 0
  k := 0
  out := Config.powerOnOut
  outWritten := false
  status := statusOk
  trace := []
  req := none
  exp := Config.powerOnExp
  lcd :=
    { mode := .unknown
      half := Config.powerOnHalf
      halfKnown := false
      stage := .start
      rx := none
      regs := Config.anyRegs 0
      ddram := { fill := .free 0, cells := [] }
      received := [] }
  session := { ready := false, cursor := 0, blink := 0, display := 0 }
  todo := []
  task := []
  report := none
  answers := []
  drawn := 0
  frees := 1

/-- The machine right after reset, with `DEV_ADDR` and `TIMEOUT_MS` open and the control lines at the spec's default
positions (00_scope.md R11; log 2). -/
def reset : State :=
  resetWith { devAddr := Config.devAddr, timeoutMs := Config.timeoutMs, wiring := defaultWiring }

end State

end Sys2Proof.Machine
end

