-- ==== Sys2Proof/Machine/Flags.lean ====
section
/-! DEFINITION. "The block has no status flags, condition codes or predicates" (10_state.md R30): what a request leaves is in
`STATUS` alone, and no instruction writes a flag. What the host reads of it (R24) and what it makes of it (60_exceptions.md
R121). -/

namespace Sys2Proof.Machine

/-- `STATUS` as the host may use it: "it is meaningful only in `IDLE`" (R24). -/
def readStatus (s : State) : Option (BitVec 2) :=
  match s.phase with
  | .idle => some s.status
  | .busy => none

/-- What a host that reads `STATUS` in `IDLE` reports (R121): nothing for `OK`, `onFail` for `TRANSPORT_FAILURE`. -/
def errorReport (onFail : HostReport) (status : BitVec 2) : Option HostReport :=
  if status = statusOk then none
  else if status = statusTransportFailure then some onFail
  else some .illegalRequest

end Sys2Proof.Machine
end

