-- ==== Sys2Proof/Machine/Operands.lean ====
section
/-! DEFINITION. The block's combinational functions: the control-line masks (00_scope.md R11), the framing functions
(41_framer.md R80, R87, R88), the command encoder (42_command_encoder.md R93 to R100) and the fields of an expander byte
(10_state.md R26), over the parameters of R11. -/

namespace Sys2Proof.Machine

/-- The mask of the control line at position `p`: `1 << p` (R11). -/
def lineMask (p : Fin 4) : Byte := 1#8 <<< p.val

/-- The backlight bits of every byte: `BL_LEVEL` at `BL_POS` (R26, R80). -/
def blBits (p : Wiring) : Byte := p.blLevel.setWidth 8 <<< p.bl.val

/-- `b[7:4]` (20_memory.md R42). -/
def hiNibble (b : Byte) : Nibble := b.extractLsb' 4 4

/-- `b[3:0]` (R42). -/
def loNibble (b : Byte) : Nibble := b.extractLsb' 0 4

/-- The level of the control line at position `p` in an expander byte (R26). -/
def lineOf (v : Byte) (p : Fin 4) : Bit := v.extractLsb' p.val 1

/-- The data bits of an expander byte, `DATA_HI` down to `DATA_LO` (R11, R26). -/
def dataMask (p : Wiring) : Byte := 0xFF#8 <<< p.dataLo.val &&& 0xFF#8 >>> (7 - p.dataHi.val)

/-- A nibble in the data bits (R26: "the nibble being sent"). -/
def placeData (p : Wiring) (n : Nibble) : Byte := n.setWidth 8 <<< p.dataLo.val &&& dataMask p

/-- The nibble in the data bits of an expander byte (R26, R89). -/
def dataOf (p : Wiring) (v : Byte) : Nibble := ((v &&& dataMask p) >>> p.dataLo.val).setWidth 4

/-- `frameNibble(n)` (R88): the nibble in the data bits with RS and RW low and BL at its level, EN high and then low. -/
def frameNibble (p : Wiring) (n : Nibble) : List Byte :=
  let d := placeData p n
  [d ||| blBits p ||| lineMask p.en, d ||| blBits p]

/-- `frameByte(b, rs)` (R87): two enable-pulsed nibbles, the high one first (R42), RS held at `rs`. -/
def frameByte (p : Wiring) (b : Byte) (rs : Bit) : List Byte :=
  let c := blBits p ||| (if rs = 1 then lineMask p.rs else 0)
  let hi := placeData p (hiNibble b)
  let lo := placeData p (loNibble b)
  [hi ||| c ||| lineMask p.en, hi ||| c, lo ||| c ||| lineMask p.en, lo ||| c]

/-- A flag of a command byte at its position (R63: "option flags"). -/
def flagAt (pos : Fin 8) (b : Bit) : Byte := b.setWidth 8 <<< pos.val

/-- `enc_clear()` (R94). -/
def encClear (p : Params) : Byte := p.commands.clear

/-- `enc_home()` (R95). -/
def encHome (p : Params) : Byte := p.commands.home

/-- `enc_entry(id, s)` (R96). -/
def encEntry (p : Params) (id s : Bit) : Byte :=
  p.commands.entry ||| flagAt p.commands.idPos id ||| flagAt p.commands.sPos s

/-- `enc_dispctl(d, c, b)` (R97). -/
def encDispctl (p : Params) (d c b : Bit) : Byte :=
  p.commands.dispctl ||| flagAt p.commands.dPos d ||| flagAt p.commands.cPos c ||| flagAt p.commands.bPos b

/-- `enc_shift(sc, rl)` (R98). -/
def encShift (p : Params) (sc rl : Bit) : Byte :=
  p.commands.shift ||| flagAt p.commands.scPos sc ||| flagAt p.commands.rlPos rl

/-- `enc_funcset(dl, nl, f)` (R99). -/
def encFuncset (p : Params) (dl nl f : Bit) : Byte :=
  p.commands.funcset ||| flagAt p.commands.dlPos dl ||| flagAt p.commands.nPos nl ||| flagAt p.commands.fPos f

/-- The DDRAM address of cell (`row`, `col`): `(row << 6) | column` (20_memory.md R48), the row's base being `ROW_BASE` (R11). -/
def cellAddr (p : Params) (row : Bit) (col : Nibble) : DdAddr := rowBase p row ||| col.setWidth 7

/-- `enc_ddram(row, col)` (R100): "a wider row or column keeps only bit 0 of the row and bits 3:0 of the column". -/
def encDdram (p : Params) (row col : Byte) : Byte :=
  p.commands.ddram ||| (cellAddr p (row.setWidth 1) (col.setWidth 4)).setWidth 8

/-- The DDRAM address one position up or down (R50, R98); none where that is no 7-bit address (R14; log 16). -/
def addrBeside (up : Bool) (a : DdAddr) : Option DdAddr :=
  if up then (if a = 0x7F then none else some (a + 1)) else if a = 0 then none else some (a - 1)

end Sys2Proof.Machine
end

