-- ==== Sys2Proof/Machine/Ops.lean ====
section
/-! DEFINITION. The operations every instruction is built from: accepting a frame (41_framer.md R81), ending a request with
a status (00_scope.md R13, 60_exceptions.md R128), one bus write (R82, R124), what the expander and the controller make of it
(R89, R90), the controller's DDRAM and address counter (20_memory.md R48, R50), and the transport's answers (R13). -/

namespace Sys2Proof.Machine

/-! ### Accepting and ending a request -/

/-- The frame buffer with `seq` in `OBUF[0..len-1]`; "entries at index `NW` and above are not used" (R21) and stay. -/
def loadFrame (seq : List Byte) (o : Vector Byte 4) : Vector Byte 4 :=
  #v[seq.getD 0 o[0], seq.getD 1 o[1], seq.getD 2 o[2], seq.getD 3 o[3]]

/-- The accepted state of R81: the whole frame is in `OBUF`, `K` is 0, `PHASE` is `BUSY`; "STATUS is not changed here". -/
def accepted (seq : List Byte) (s : State) : State :=
  { s with obuf := loadFrame seq s.obuf, nw := BitVec.ofNat 3 seq.length, k := 0, phase := .busy }

/-- `accept` of a legal request whose frame is `seq` (R81); in `BUSY` the request is the fault `Overlap` (R126). -/
def acceptFrame (seq : List Byte) (s : State) : Host.Outcome State Fault Refusal :=
  match s.phase with
  | .idle => .next (accepted seq s)
  | .busy => .fault .overlap

/-- `raise S` (R13): the request ends with status `st`. "An error saves no state besides `STATUS`. ... The block simply goes to
`IDLE`" (R128). A request that succeeds ends the same way with `OK` (R82). -/
def endRequest (st : BitVec 2) (s : State) : State := { s with status := st, phase := .idle }

/-- The block takes an illegal word (30_encoding.md R61, R125): no write, only `STATUS`. -/
def rejectRequest (s : State) : State := endRequest statusIllegalRequest s

/-! ### The transport's answers -/

/-- The transport's next answer (R13): the next fixed one, or else the next draw. -/
def nextAnswer (s : State) : Draw :=
  match s.answers with
  | d :: _ => d
  | [] => Config.draw s.drawn

/-- The state after the transport's next answer is used up. -/
def takeAnswer (s : State) : State :=
  match s.answers with
  | _ :: ds => { s with answers := ds }
  | [] => { s with drawn := s.drawn + 1 }

/-- The answer the transport will give to the `n`-th use from here. -/
def answerAt (s : State) (n : Nat) : Draw :=
  s.answers.getD n (Config.draw (s.drawn + (n - s.answers.length)))

/-! ### The controller's memory -/

/-- What an address reads as that the cells do not list. -/
def fillByte : Fill → DdAddr → Byte
  | .space, _ => spaceByte
  | .free n, a => Config.anyDdram n a

/-- The byte listed for address `a`. -/
def cellsFind (a : Nat) : List Host.Cell → Option Byte
  | [] => none
  | (b, v) :: rest => if b = a then some v else cellsFind a rest

/-- The cells without address `a`. -/
def cellsErase (a : Nat) : List Host.Cell → List Host.Cell
  | [] => []
  | (b, v) :: rest => if b = a then rest else (b, v) :: cellsErase a rest

/-- The cells, by rising address, with `v` at address `a`. -/
def cellsInsert (a : Nat) (v : Byte) : List Host.Cell → List Host.Cell
  | [] => [(a, v)]
  | (b, u) :: rest =>
    if a < b then (a, v) :: (b, u) :: rest
    else if b = a then (a, v) :: rest
    else (b, u) :: cellsInsert a v rest

/-- The byte of DDRAM at `a`. -/
def ddramRead (m : Ddram) (a : DdAddr) : Byte := (cellsFind a.toNat m.cells).getD (fillByte m.fill a)

/-- DDRAM with `v` at `a`, in canonical form. -/
def ddramWrite (m : Ddram) (a : DdAddr) (v : Byte) : Ddram :=
  if v = fillByte m.fill a then { m with cells := cellsErase a.toNat m.cells }
  else { m with cells := cellsInsert a.toNat v m.cells }

/-- Every address of the cells is above `a`. -/
def cellsAbove (a : Nat) : List Host.Cell → Bool
  | [] => true
  | (b, _) :: _ => a < b

/-- The canonical form of the cells over `f`: addresses strictly rising, below 128, and no entry equal to what an unlisted
address reads as. -/
def cellsWf (f : Fill) : List Host.Cell → Bool
  | [] => true
  | (a, v) :: rest => cellsAbove a rest && (a < 128 && v ≠ fillByte f (BitVec.ofNat 7 a)) && cellsWf f rest

/-- The canonical form of DDRAM. -/
def ddramWf (m : Ddram) : Bool := cellsWf m.fill m.cells

/-- DDRAM after a clear: "clear fills DDRAM with spaces" (R102). -/
def ddramClear : Ddram := { fill := .space, cells := [] }

/-! ### The controller -/

/-- The controller's state where the spec gives it none: "any value for controller state" (93 U5 to U7). The mode becomes the
spec's own `UNKNOWN`, `LCD.half` is no longer known, and the registers and DDRAM are fresh free values (log 11). -/
def anyController (s : State) : State :=
  { s with
    lcd :=
      { s.lcd with
        mode := .unknown
        halfKnown := false
        regs := Config.anyRegs s.frees
        ddram := { fill := .free s.frees, cells := [] } }
    frees := s.frees + 1 }

/-- The state with its controller's registers replaced. -/
def setRegs (r : LcdRegs) (s : State) : State := { s with lcd := { s.lcd with regs := r } }

/-- The state with its controller's DDRAM replaced. -/
def setDdram (m : Ddram) (s : State) : State := { s with lcd := { s.lcd with ddram := m } }

/-- The state with `LCD.mode` replaced. -/
def setMode (m : Mode) (s : State) : State := { s with lcd := { s.lcd with mode := m } }

/-- The controller is in 8-bit mode: "`LCD.half` applies in `BIT4` only" (R31), so it is no longer known (log 10). -/
def setBit8 (s : State) : State := { s with lcd := { s.lcd with mode := .bit8, halfKnown := false } }

/-- The state with `LCD.half` replaced. -/
def setHalf (h : Half) (s : State) : State := { s with lcd := { s.lcd with half := h } }

/-- The state with one more event at the controller's interface. -/
def receive (e : Received) (s : State) : State :=
  { s with lcd := { s.lcd with received := s.lcd.received ++ [e] } }

/-- The address counter moves by one position (R50, R96, R98), up or down; to a free value where that is no 7-bit address, or where
the counter is in no DDRAM (log 16). -/
def moveCursor (up : Bool) (s : State) : State :=
  match if s.lcd.regs.acDdram = 1 then addrBeside up s.lcd.regs.ac else none with
  | some a => setRegs { s.lcd.regs with ac := a } s
  | none => { setRegs { s.lcd.regs with ac := Config.anyAddr s.frees } s with frees := s.frees + 1 }

/-- The display shifts by one position (R98, R106). -/
def shiftDisplay (right : Bool) (s : State) : State :=
  setRegs { s.lcd.regs with shift := s.lcd.regs.shift + (if right then 1 else -1) } s

/-- The display shifts in a direction the spec does not state (R64: "1 = shift display"; log 17). -/
def shiftSomehow (s : State) : State :=
  { setRegs { s.lcd.regs with shift := Config.anyShift s.frees } s with frees := s.frees + 1 }

/-- The controller takes a data byte: it is written at the address counter, which then moves as the entry mode says (R50, R86),
and the display shifts with it where S is 1. Where the counter does not address DDRAM the spec says nothing (93 U6). -/
def takeData (b : Byte) (s : State) : State :=
  if s.lcd.regs.acDdram = 1 then
    let moved := moveCursor (s.lcd.regs.entryId = 1) (setDdram (ddramWrite s.lcd.ddram s.lcd.regs.ac b) s)
    if s.lcd.regs.entryS = 1 then shiftSomehow moved else moved
  else anyController s

/-! ### One bus write -/

/-- The nibble and the register-select the controller latches when the expander goes from `old` to `new` (R89): one only where
EN falls, and where the data or RS change with it a draw between the two values. -/
def latchOf (p : Wiring) (d : Draw) (old new : Byte) : Option (Nibble × Bit) :=
  if lineOf new p.en = 0 ∧ lineOf old p.en = 1 then
    some (if d.newNibble then dataOf p new else dataOf p old, if d.newRs then lineOf new p.rs else lineOf old p.rs)
  else none

/-- A byte is complete (R90): the controller gets it as an instruction or as data; with two different RS values its result is
unspecified (93 U7). -/
def deliver (n0 : Nibble) (rs0 : Bit) (n : Nibble) (rs : Bit) (s : State) : State :=
  if rs0 = rs then
    let b : Byte := n0 ++ n
    let t := receive (if rs = 1 then .data b else .instruction b) s
    { t with lcd := { t.lcd with rx := some { byte := b, rs := rs } } }
  else anyController (receive .unspecified s)

/-- `LCD.half` after a latch (R90): a high nibble is recorded, a low one completes the pair. -/
def halfAfter (h : Half) (n : Nibble) (rs : Bit) : Half :=
  match h with
  | .hi => .lo n rs
  | .lo _ _ => .hi

/-- The controller latches a nibble (R90). In `BIT4` nibbles pair up, high first; in any other mode the latch has no meaning the
spec gives (93 U5), but for the mandatory sequence (`completeNibble`). -/
def latch (n : Nibble) (rs : Bit) (s : State) : State :=
  let t := setHalf (halfAfter s.lcd.half n rs) s
  if s.lcd.mode = .bit4 then
    match s.lcd.half with
    | .hi => t
    | .lo n0 rs0 => deliver n0 rs0 n rs t
  else anyController (receive .unspecified t)

/-- The written byte reaches the expander (R28): its latch takes it, and the controller whatever falls out of that (R89). -/
def drive (d : Draw) (v : Byte) (s : State) : State :=
  let t := { s with exp := v }
  match latchOf s.params.wiring d s.exp v with
  | some (n, rs) => latch n rs t
  | none => t

/-- How far the mandatory sequence `3, 3, 3, 2` has come when a nibble request of nibble `n` completes (R145); `none` where it is
complete. -/
def stageAfter (st : Stage) (n : Nibble) : Option Stage :=
  match st with
  | .start => if n = 3 then some .one else some .start
  | .one => if n = 3 then some .two else some .start
  | .two => if n = 3 then some .three else some .start
  | .three => if n = 3 then some .three else if n = 2 then none else some .start

/-- A nibble request of nibble `n` has completed (R145): the sequence comes one request further, and when it is complete
"`LCD.mode <- BIT4` and `LCD.half <- HI`". -/
def completeNibble (n : Nibble) (s : State) : State :=
  match stageAfter s.lcd.stage n with
  | some st => { s with lcd := { s.lcd with stage := st } }
  | none =>
    { s with lcd := { s.lcd with mode := .bit4, half := .hi, halfKnown := true, stage := .start, rx := none } }

/-- A frame has been sent whole: `v` was its last byte. A nibble frame has 2 bytes, a byte frame 4 (R92). -/
def completeFrame (v : Byte) (s : State) : State :=
  if s.nw = 2 then completeNibble (dataOf s.params.wiring v) s else { s with lcd := { s.lcd with stage := .start } }

/-- What a failure leaves of the controller: "a model sets `LCD.half` to unknown after any failure" (70 R150), and the mandatory
sequence is broken (R145: "without failure"). -/
def spoil (s : State) : State := { s with lcd := { s.lcd with halfKnown := false, stage := .start } }

/-- The byte is presented to the transport (R82): `OUT` and `TRACE` record it, whatever the result. -/
def present (d : Draw) (v : Byte) (s : State) : State :=
  { s with
    out := v
    outWritten := true
    trace := s.trace ++ [{ addr := s.params.devAddr, byte := v, result := d.result }] }

/-- Whether the written byte reaches the expander: always if the write succeeds (R28), else as the draw has it (R124). -/
def reaches (d : Draw) : Bool := d.result = .ok || d.took

/-- One `BusWrite` of the byte `v` (R13, R82): recorded, and driven onto the expander where it reaches it. -/
def transmit (d : Draw) (v : Byte) (s : State) : State :=
  if reaches d then drive d v (present d v s) else present d v s

/-- `emit` of R82 for the byte `v = OBUF[K]` and the transport's answer `d`. On a success `K` counts the write (R22; log 7). -/
def emitWith (d : Draw) (v : Byte) (s : State) : State :=
  let t := transmit d v s
  match d.result with
  | .fail => endRequest statusTransportFailure (spoil t)
  | .ok =>
    let u := { t with k := t.k + 1 }
    if u.k = u.nw then endRequest statusOk (completeFrame v u) else u

/-- `OBUF[K]`, where `K < NW` (R82). -/
def nextByte (s : State) : Option Byte := if s.k < s.nw then s.obuf[s.k.toNat]? else none

/-- The emission step (R82): one transport write. -/
def emit (s : State) : Host.Outcome State Fault Refusal :=
  match nextByte s with
  | some v => .next (emitWith (nextAnswer s) v (takeAnswer s))
  | none => .fault .stepIndexRange

/-! ### A request as a whole -/

/-- `run(seq)` of R83: the status a frame ends with, and the entries it adds to `TRACE`, for the answers `ans 0, ans 1, ...`. -/
def runFrame (addr : BusAddr) (ans : Nat → Draw) : List Byte → BitVec 2 × List TraceEntry
  | [] => (statusOk, [])
  | v :: rest =>
    match (ans 0).result with
    | .fail => (statusTransportFailure, [{ addr := addr, byte := v, result := .fail }])
    | .ok =>
      let r := runFrame addr (fun n => ans (n + 1)) rest
      (r.1, { addr := addr, byte := v, result := .ok } :: r.2)

/-! ### What can be read -/

/-- `PHASE`, which the host can read (R20). -/
def readPhase (s : State) : Phase := s.phase

/-- `OUT`: "a model gives `OUT` no value until the first write, and reading it before then faults" (R23; R36; 93 U16). An
observation: no instruction and no step reads `OUT`, and "the host cannot read it". -/
def readOut (s : State) : Except ReadFault Byte := if s.outWritten then .ok s.out else .error .outUnwritten

/-- `LCD.half` where it is known (R31, R141, R150). -/
def readHalf (s : State) : Option Half := if s.lcd.halfKnown then some s.lcd.half else none

end Sys2Proof.Machine
end

