-- ==== Sys2Proof/Machine/Controller.lean ====
section
/-! DEFINITION. The HD44780's instructions: what the controller does with a command byte delivered to it (41_framer.md R90), as
far as the spec says it (30_encoding.md R64; 42_command_encoder.md R94 to R108). Where it says nothing the controller's state
is free (93 U6). -/

namespace Sys2Proof.Machine

/-- Clear display: "clear fills DDRAM with spaces and sets the address to 0" (R102). -/
def execHdClear (s : State) : Host.Outcome State Fault Refusal :=
  .next (setRegs { s.lcd.regs with ac := 0, acDdram := 1 } (setDdram ddramClear s))

/-- Return home: the cursor goes to cell (0, 0), DDRAM address 0 (R64, R103). The variant with bit 0 set is outside the spec
(R67). -/
def execHdHome (dc : Bit) (s : State) : Host.Outcome State Fault Refusal :=
  .next (if dc = 0 then setRegs { s.lcd.regs with ac := 0, acDdram := 1 } s else anyController s)

/-- Entry mode set: I/D and S (R64, R96). -/
def execHdEntry (id sh : Bit) (s : State) : Host.Outcome State Fault Refusal :=
  .next (setRegs { s.lcd.regs with entryId := id, entryS := sh } s)

/-- Display on/off control: D, C and B (R64, R97). -/
def execHdDispctl (d c b : Bit) (s : State) : Host.Outcome State Fault Refusal :=
  .next (setRegs { s.lcd.regs with dispD := d, dispC := c, dispB := b } s)

/-- Cursor or display shift by one position (R64, R98, R106). The variants with bits 1:0 set are outside the spec (R67). -/
def execHdShift (sc rl : Bit) (dc : BitVec 2) (s : State) : Host.Outcome State Fault Refusal :=
  .next
    (if dc = 0 then (if sc = 1 then shiftDisplay (rl = 1) s else moveCursor (rl = 1) s)
     else anyController s)

/-- Function set: DL selects the interface width, N the lines, F the font (R64, R99, R107). In 8-bit mode `LCD.half` does not apply
and is not known from there on, the model's choice (R31; log 10). The variants with bits 1:0 set are
outside the spec (R67). -/
def execHdFuncset (dl nl f : Bit) (dc : BitVec 2) (s : State) : Host.Outcome State Fault Refusal :=
  .next
    (if dc = 0 then
      let t := setRegs { s.lcd.regs with lines := nl, font := f } s
      if dl = 1 then setBit8 t else setMode .bit4 t
     else anyController s)

/-- Set CGRAM address: "what the controller does with them is outside this spec" (R67), so any value for its state (93 U6). -/
def execHdSetCgram (_ : BitVec 6) (s : State) : Host.Outcome State Fault Refusal :=
  .next (anyController s)

/-- Set DDRAM address: the address counter (R64, R100). -/
def execHdSetDdram (add : DdAddr) (s : State) : Host.Outcome State Fault Refusal :=
  .next (setRegs { s.lcd.regs with ac := add, acDdram := 1 } s)

end Sys2Proof.Machine
end

