-- ==== Sys2Proof/Machine/Encoder.lean ====
section
/-! DEFINITION. The command requests (42_command_encoder.md section 2): each encodes its byte and frames it as a command, with
RS = 0 (R109). -/

namespace Sys2Proof.Machine

/-- A command request whose encoded byte is `b` (R109). -/
def sendEncoded (b : Byte) (s : State) : Host.Outcome State Fault Refusal :=
  acceptFrame (frameByte s.params.wiring b 0) s

/-- `CLEAR` (R102). -/
def execClear (s : State) : Host.Outcome State Fault Refusal := sendEncoded (encClear s.params) s

/-- `HOME` (R103). -/
def execHome (s : State) : Host.Outcome State Fault Refusal := sendEncoded (encHome s.params) s

/-- `ENTRY id, s` (R104). -/
def execEntry (id sh : Bit) (s : State) : Host.Outcome State Fault Refusal := sendEncoded (encEntry s.params id sh) s

/-- `DISPCTL d, c, b` (R105). -/
def execDispctl (d c b : Bit) (s : State) : Host.Outcome State Fault Refusal := sendEncoded (encDispctl s.params d c b) s

/-- `SHIFT sc, rl` (R106). -/
def execShift (sc rl : Bit) (s : State) : Host.Outcome State Fault Refusal := sendEncoded (encShift s.params sc rl) s

/-- `FUNCSET dl, nl, f` (R107). -/
def execFuncset (dl nl f : Bit) (s : State) : Host.Outcome State Fault Refusal := sendEncoded (encFuncset s.params dl nl f) s

/-- `SETDDRAM row, col` (R108). -/
def execSetddram (row : Bit) (col : Nibble) (s : State) : Host.Outcome State Fault Refusal :=
  sendEncoded (encDdram s.params (row.setWidth 8) (col.setWidth 8)) s

end Sys2Proof.Machine
end

