-- ==== Sys2Proof/Machine/Framer.lean ====
section
/-! DEFINITION. The framing requests (41_framer.md section 3). -/

namespace Sys2Proof.Machine

/-- `NIB n` (R84): `frame(NIB(N)) = frameNibble(N)`. -/
def execNib (n : Nibble) (s : State) : Host.Outcome State Fault Refusal :=
  acceptFrame (frameNibble s.params.wiring n) s

/-- `CMD b` (R85): `frame(CMD(B)) = frameByte(B, 0)`. -/
def execCmd (b : Byte) (s : State) : Host.Outcome State Fault Refusal :=
  acceptFrame (frameByte s.params.wiring b 0) s

/-- `DATA b` (R86): `frame(DATA(B)) = frameByte(B, 1)`. -/
def execData (b : Byte) (s : State) : Host.Outcome State Fault Refusal :=
  acceptFrame (frameByte s.params.wiring b 1) s

end Sys2Proof.Machine
end

