-- ==== Sys2Proof/Machine/Dispatch.lean ====
section
/-! DEFINITION. One arm per instruction. -/

namespace Sys2Proof.Machine

def exec (i : Instr) (s : State) : Host.Outcome State Fault Refusal :=
  match i with
  | .nib n => Sys2Proof.Machine.execNib n s
  | .cmd b => Sys2Proof.Machine.execCmd b s
  | .data b => Sys2Proof.Machine.execData b s
  | .clear => Sys2Proof.Machine.execClear s
  | .home => Sys2Proof.Machine.execHome s
  | .entry id sh => Sys2Proof.Machine.execEntry id sh s
  | .dispctl d c b => Sys2Proof.Machine.execDispctl d c b s
  | .shift sc rl => Sys2Proof.Machine.execShift sc rl s
  | .funcset dl nl f => Sys2Proof.Machine.execFuncset dl nl f s
  | .setddram row col => Sys2Proof.Machine.execSetddram row col s
  | .hdClear => Sys2Proof.Machine.execHdClear s
  | .hdHome dc => Sys2Proof.Machine.execHdHome dc s
  | .hdEntry id sh => Sys2Proof.Machine.execHdEntry id sh s
  | .hdDispctl d c b => Sys2Proof.Machine.execHdDispctl d c b s
  | .hdShift sc rl dc => Sys2Proof.Machine.execHdShift sc rl dc s
  | .hdFuncset dl nl f dc => Sys2Proof.Machine.execHdFuncset dl nl f dc s
  | .hdSetCgram acg => Sys2Proof.Machine.execHdSetCgram acg s
  | .hdSetDdram add => Sys2Proof.Machine.execHdSetDdram add s

end Sys2Proof.Machine
end

