-- ==== Sys2Proof/Machine/HostAgent.lean ====
section
/-! DEFINITION. The host, the third agent of 00_scope.md R10: the initialisation handshake it must send (70_reset_and_hazards.md
R142 to R148), the position check it must make (42_command_encoder.md R101), its on/off-control operations (00_scope.md R6), and
the requests it presents one at a time. It moves only while the block is `IDLE`, but for an operation that breaks that duty
(60_exceptions.md R126). -/

namespace Sys2Proof.Machine

/-- The request word of an instruction; 0, an illegal word, for a controller instruction, which no host presents. -/
def wordOf (i : Instr) : ReqWord :=
  match encode i with
  | .request w => w
  | .command _ => 0

/-- A request of the handshake: present it, and give up with `InitializationFailed` if it fails (R147). -/
def initCall (i : Instr) : List HostAct := [.call (wordOf i), .check .initializationFailed]

/-- Step 3 of the handshake (R145). -/
def nibbleHandshake : List HostAct :=
  initCall (.nib 3) ++ [.delay 5] ++ initCall (.nib 3) ++ [.delay 1] ++ initCall (.nib 3) ++ [.delay 1] ++
    initCall (.nib 2) ++ [.delay 1]

/-- Step 4 of the handshake (R146, R111): no delay follows the last command. -/
def configuration (show_ blink : Bit) : List HostAct :=
  initCall (.funcset 0 1 0) ++ [.delay 1] ++ initCall (.dispctl 1 show_ blink) ++ [.delay 1] ++
    initCall .clear ++ [.delay 1] ++ initCall (.entry 1 0)

/-- `initialize` (R142): presence check, 45 ms, steps 3 and 4, and the promotion to `Ready` (R147). -/
def handshake (show_ blink : Bit) : List HostAct :=
  [.probe, .delay 45] ++ nibbleHandshake ++ configuration show_ blink ++ [.promote show_ blink]

/-- What one request of the host does outside the handshake. -/
def plainCall (w : ReqWord) : List HostAct := [.call w, .check .transportFailure, .done]

/-- Whether a position is a cell: "row ≤ 1, column ≤ 15" (R101), the parameters `ROWS` and `COLS` of 00_scope.md R11. -/
def validPosition (p : Params) (row col : Nat) : Bool := row < p.rows && col < p.cols

/-- `setPosition` (R101): an invalid position is rejected, never clamped, and no request is presented. -/
def positionCall (p : Params) (row col : Nat) : List HostAct :=
  if validPosition p row col then plainCall (wordOf (.setddram (BitVec.ofNat 1 row) (BitVec.ofNat 4 col)))
  else [.reject]

/-- The request of an on/off-control. -/
def displayCall (d c b : Bit) : List HostAct := plainCall (wordOf (.dispctl d c b))

/-- The session after an operation of 00_scope.md R6 has begun: "`setCursor` updates and persists the flags"; turning the display
on or off keeps them. While the display is off, what `setCursor` does with it is 93 U17's parameter. -/
def sessionAfter (op : HostOp) (se : Session) : Session :=
  match op with
  | .turnOn => { se with display := 1 }
  | .turnOff => { se with display := 0 }
  | .setCursor v b =>
    { se with cursor := v, blink := b, display := if se.display = 1 then 1 else Config.setCursorDisplay }
  | .request _ => se
  | .requestNow _ => se
  | .init _ _ => se
  | .setPosition _ _ => se

/-- The steps of an operation, `se` being the session after it has begun. Turning off "always clears cursor/blink flags in the
command sent" (R6); the others send the session's flags. -/
def opActs (p : Params) (se : Session) : HostOp → List HostAct
  | .request w => plainCall w
  | .requestNow _ => []
  | .init c b => handshake c b
  | .setPosition row col => positionCall p row col
  | .turnOn => displayCall se.display se.cursor se.blink
  | .turnOff => displayCall se.display 0 0
  | .setCursor _ _ => displayCall se.display se.cursor se.blink

/-- The operation in progress ends with a report. -/
def endTask (r : HostReport) (s : State) : State := { s with report := some r, task := [] }

/-- An operation gives up. A failed `initialize` leaves the session `Uninitialized` (R143, R147). That it does
so of a session that was `Ready`, and that it leaves the two flags and the host's display bit as they were, is the model's choice
(log 22). Any other operation that gives up leaves the session as it was: a `Ready` session stays `Ready` after a
`TransportFailure` outside `initialize`, the model's choice too (60_exceptions.md R129; log 22). -/
def giveUp (r : HostReport) (s : State) : State :=
  let t := endTask r s
  if r = .initializationFailed ∨ r = .deviceNotFound then { t with session := { t.session with ready := false } } else t

/-- One step of the host's operation, the block being `IDLE`. The host's display bit is set when a handshake completes, not at its
`DISPCTL` request: the model's choice (log 22). -/
def hostAct (a : HostAct) (s : State) : State :=
  match a with
  | .probe =>
    let t := takeAnswer s
    if (nextAnswer s).result = .ok then t else giveUp .deviceNotFound t
  | .delay _ => s
  | .call w => { s with req := some w }
  | .check onFail =>
    match errorReport onFail s.status with
    | some r => giveUp r s
    | none => s
  | .promote c b => endTask .ok { s with session := { ready := true, cursor := c, blink := b, display := 1 } }
  | .reject => endTask .invalidPosition s
  | .done => endTask .ok s

/-- An on/off-control operation begins: the session is brought up to date, then the request is to be sent. -/
def beginDisplay (op : HostOp) (s : State) : State :=
  let se := sessionAfter op s.session
  { s with session := se, task := opActs s.params se op }

/-- The host begins its next operation. The session of a repeated `initialize` stays as it is until the operation ends, the model's
choice (R142; log 22). `requestNow` has no further act, so nothing reads the status of its request and `State.report` stays as it
was (log 22). -/
def beginOp (op : HostOp) (s : State) : State :=
  match op with
  | .requestNow w => { s with req := some w }
  | .request w => { s with task := opActs s.params s.session (.request w) }
  | .init c b => { s with task := opActs s.params s.session (.init c b) }
  | .setPosition row col => { s with task := opActs s.params s.session (.setPosition row col) }
  | .turnOn => beginDisplay .turnOn s
  | .turnOff => beginDisplay .turnOff s
  | .setCursor v b => beginDisplay (.setCursor v b) s

/-- The host's step while the block is `IDLE` and no request is presented; with nothing to do it waits ("The block waits in
`IDLE` for its first request", 70 R140). -/
def hostStep (s : State) : State :=
  match s.task, s.todo with
  | a :: rest, _ => hostAct a { s with task := rest }
  | [], op :: rest => beginOp op { s with todo := rest }
  | [], [] => s

/-- Whether the host presents a request now, whatever `PHASE` is: one stands at the port, or its next operation is one that does
not wait. -/
def presenting (s : State) : Bool :=
  match s.req, s.task, s.todo with
  | some _, _, _ => true
  | none, [], .requestNow _ :: _ => true
  | none, _, _ => false

end Sys2Proof.Machine
end

