-- ==== Sys2Proof/Machine/Step.lean ====
section
/-! DEFINITION. One step of the machine. A byte delivered to the controller is taken first (41_framer.md R90); then the block
emits if it is `BUSY` (R82) or accepts the word at its port if it is `IDLE` (R81); else the host moves (log 1). -/

namespace Sys2Proof.Machine

/-- The controller takes the byte delivered to it (R90): an instruction if RS is 0, data if it is 1. The byte 0x00 is no
instruction (30_encoding.md R65), and what the controller does with it is outside the spec (R67, 93 U6). -/
def controllerStep (d : Delivered) (s : State) : Host.Outcome State Fault Refusal :=
  if d.rs = 1 then .next (takeData d.byte s)
  else
    match decode (.command d.byte) with
    | .ok i => exec i s
    | .error _ => .next (anyController s)

/-- The idle block accepts the word presented to it (R81): an illegal one ends at once with `ILLEGAL_REQUEST` (R125). -/
def acceptStep (w : ReqWord) (s : State) : Host.Outcome State Fault Refusal :=
  match decode (.request w) with
  | .ok i => exec i s
  | .error _ => .next (rejectRequest s)

/-- The state whose controller has no byte waiting. -/
def State.takeRx (s : State) : State := { s with lcd := { s.lcd with rx := none } }

/-- The state with nothing at the request port. -/
def State.takeReq (s : State) : State := { s with req := none }

/-- One step. A request presented while `BUSY` is the fault `Overlap` (60_exceptions.md R126). -/
def step (s : State) : Host.Outcome State Fault Refusal :=
  match s.lcd.rx with
  | some d => controllerStep d s.takeRx
  | none =>
    match s.phase with
    | .busy => if presenting s then .fault .overlap else emit s
    | .idle =>
      match s.req with
      | some w => acceptStep w s.takeReq
      | none => .next (hostStep s)

/-- The state with a table word where the next step fetches it: a request word at the port of the idle block, a command byte
delivered to the controller (log 25). A width the table does not have changes nothing. -/
def State.withFetchWord (s : State) (nbits w : Nat) : State :=
  match tableCode nbits w with
  | some (.request r) => { s with phase := .idle, req := some r, lcd := { s.lcd with rx := none } }
  | some (.command b) => { s with lcd := { s.lcd with rx := some { byte := b, rs := 0 } } }
  | none => s

end Sys2Proof.Machine
end

