-- ==== Sys2Proof/Machine/Assembler.lean ====
section
/-! DEFINITION. The assembler (30_encoding.md R68, R69): the spec's own way of writing request words, no part of the hardware.
A line is a list of characters. -/

namespace Sys2Proof.Machine

/-- The request a line stands for, its operands in range; a pseudo-instruction stands for exactly one request (R69). -/
def asmInstr : Asm → Instr
  | .nib n => .nib (BitVec.ofNat 4 n)
  | .cmd b => .cmd (BitVec.ofNat 8 b)
  | .data b => .data (BitVec.ofNat 8 b)
  | .clear => .clear
  | .home => .home
  | .entry id s => .entry (BitVec.ofNat 1 id) (BitVec.ofNat 1 s)
  | .dispctl d c b => .dispctl (BitVec.ofNat 1 d) (BitVec.ofNat 1 c) (BitVec.ofNat 1 b)
  | .shift sc rl => .shift (BitVec.ofNat 1 sc) (BitVec.ofNat 1 rl)
  | .funcset dl nl f => .funcset (BitVec.ofNat 1 dl) (BitVec.ofNat 1 nl) (BitVec.ofNat 1 f)
  | .setddram row col => .setddram (BitVec.ofNat 1 row) (BitVec.ofNat 4 col)
  | .dispon c b => .dispctl 1 (BitVec.ofNat 1 c) (BitVec.ofNat 1 b)
  | .dispoff => .dispctl 0 0 0
  | .cursorl => .shift 0 0
  | .cursorr => .shift 0 1
  | .scrolll => .shift 1 0
  | .scrollr => .shift 1 1
  | .func4bit2l => .funcset 0 1 0
  | .entryinc => .entry 1 0
  | .char code => .data (BitVec.ofNat 8 code)
  | .pos row col => .setddram (BitVec.ofNat 1 row) (BitVec.ofNat 4 col)

/-- The word of a line; none where an operand is out of range: "it is never masked into range" (R68). -/
def assemble (a : Asm) : Option ReqWord :=
  if a.wellFormed then
    match encode (asmInstr a) with
    | .request w => some w
    | .command _ => none
  else none

/-- The quote of a character literal. -/
def quoteChar : Char := Char.ofNat 39

/-- A space or a tab. -/
def isBlank (c : Char) : Bool := c.toNat = 32 || c.toNat = 9

/-- The text without the blanks around it. -/
def trim (cs : List Char) : List Char := ((cs.dropWhile isBlank).reverse.dropWhile isBlank).reverse

/-- The line before its comment ("`;` starts a comment"); a `;` inside a character literal starts none. -/
def stripComment : List Char → List Char
  | c :: d :: e :: rest =>
    if c = quoteChar ∧ e = quoteChar then c :: d :: e :: stripComment rest
    else if c = ';' then [] else c :: stripComment (d :: e :: rest)
  | c :: rest => if c = ';' then [] else c :: stripComment rest
  | [] => []

/-- Characters put before the first of the pieces. -/
def putBefore (cs : List Char) : List (List Char) → List (List Char)
  | [] => [cs]
  | p :: ps => (cs ++ p) :: ps

/-- The pieces between commas; a comma inside a character literal separates nothing. -/
def splitCommas : List Char → List (List Char)
  | c :: d :: e :: rest =>
    if c = quoteChar ∧ e = quoteChar then putBefore [c, d, e] (splitCommas rest)
    else if c = ',' then [] :: splitCommas (d :: e :: rest) else putBefore [c] (splitCommas (d :: e :: rest))
  | c :: rest => if c = ',' then [] :: splitCommas rest else putBefore [c] (splitCommas rest)
  | [] => [[]]

/-- The value of a decimal or hexadecimal digit. -/
def digit (c : Char) : Option Nat :=
  let n := c.toNat
  if 48 ≤ n ∧ n ≤ 57 then some (n - 48)
  else if 65 ≤ n ∧ n ≤ 70 then some (n - 55)
  else if 97 ≤ n ∧ n ≤ 102 then some (n - 87)
  else none

/-- A numeral in `base`, digits from the left, after `acc`. -/
def digits (base : Nat) : Nat → List Char → Option Nat
  | acc, [] => some acc
  | acc, c :: rest =>
    match digit c with
    | some d => if d < base then digits base (acc * base + d) rest else none
    | none => none

/-- An operand: a numeral, or the code of a character literal. -/
inductive Operand where
  | num (n : Nat)
  | chr (code : Nat)
  deriving DecidableEq, Repr

/-- An operand as written (R68). A character literal "stands for the character's ASCII code", so a character that has none is no
operand (log 27). -/
def parseOperand (cs : List Char) : Option Operand :=
  match cs with
  | [] => none
  | '0' :: 'x' :: c :: rest => (digits 16 0 (c :: rest)).map .num
  | c :: rest =>
    match rest with
    | [d, e] =>
      if c = quoteChar ∧ e = quoteChar then (if d.toNat < 128 then some (.chr d.toNat) else none) else (digits 10 0 cs).map .num
    | _ => (digits 10 0 cs).map .num

/-- All the operands, or none where one is not an operand. -/
def parseOperands : List (List Char) → Option (List Operand)
  | [] => some []
  | p :: ps =>
    match parseOperand (trim p), parseOperands ps with
    | some o, some os => some (o :: os)
    | _, _ => none

/-- A mnemonic with its operands (R68, R69). -/
def asmOf (mnemonic : List Char) (os : List Operand) : Option Asm :=
  match mnemonic, os with
  | ['N', 'I', 'B'], [.num n] => some (.nib n)
  | ['C', 'M', 'D'], [.num b] => some (.cmd b)
  | ['D', 'A', 'T', 'A'], [.num b] => some (.data b)
  | ['D', 'A', 'T', 'A'], [.chr b] => some (.data b)
  | ['C', 'L', 'E', 'A', 'R'], [] => some .clear
  | ['H', 'O', 'M', 'E'], [] => some .home
  | ['E', 'N', 'T', 'R', 'Y'], [.num i, .num s] => some (.entry i s)
  | ['D', 'I', 'S', 'P', 'C', 'T', 'L'], [.num d, .num c, .num b] => some (.dispctl d c b)
  | ['S', 'H', 'I', 'F', 'T'], [.num sc, .num rl] => some (.shift sc rl)
  | ['F', 'U', 'N', 'C', 'S', 'E', 'T'], [.num dl, .num nl, .num f] => some (.funcset dl nl f)
  | ['S', 'E', 'T', 'D', 'D', 'R', 'A', 'M'], [.num r, .num c] => some (.setddram r c)
  | ['D', 'I', 'S', 'P', 'O', 'N'], [.num c, .num b] => some (.dispon c b)
  | ['D', 'I', 'S', 'P', 'O', 'F', 'F'], [] => some .dispoff
  | ['C', 'U', 'R', 'S', 'O', 'R', 'L'], [] => some .cursorl
  | ['C', 'U', 'R', 'S', 'O', 'R', 'R'], [] => some .cursorr
  | ['S', 'C', 'R', 'O', 'L', 'L', 'L'], [] => some .scrolll
  | ['S', 'C', 'R', 'O', 'L', 'L', 'R'], [] => some .scrollr
  | ['F', 'U', 'N', 'C', '4', 'B', 'I', 'T', '2', 'L'], [] => some .func4bit2l
  | ['E', 'N', 'T', 'R', 'Y', 'I', 'N', 'C'], [] => some .entryinc
  | ['C', 'H', 'A', 'R'], [.chr b] => some (.char b)
  | ['C', 'H', 'A', 'R'], [.num b] => some (.char b)
  | ['P', 'O', 'S'], [.num r, .num c] => some (.pos r c)
  | _, _ => none

/-- A line of assembler, read; none where it is no line of R68 or R69, and none too, the model's choice, for a line that is empty or
holds a comment alone (log 27). -/
def parseLine (cs : List Char) : Option Asm :=
  let body := trim (stripComment cs)
  let mnemonic := body.takeWhile (fun c => !isBlank c)
  let rest := trim (body.dropWhile (fun c => !isBlank c))
  let pieces := if rest = [] then [] else splitCommas rest
  match parseOperands pieces with
  | some os => asmOf mnemonic os
  | none => none

/-- The word of a line of text; none where it is no line of R68 or R69, or an operand is out of range. -/
def assembleLine (cs : List Char) : Option ReqWord :=
  match parseLine cs with
  | some a => assemble a
  | none => none

end Sys2Proof.Machine
end

