-- ==== Sys2Proof/Safety.lean ====
section
/-! DEFINITION. What the claims are about: frames that drive the control lines as 41_framer.md R91 says, the invariant every step
keeps, and the duty of the host (60_exceptions.md R126). -/

namespace Sys2Proof.Machine

/-- RW is 0 and BL is at its level (41_framer.md R91: "Every byte of every frame has `RW` = 0 and `BL` = 1"). -/
def wellDriven (p : Wiring) (v : Byte) : Bool := lineOf v p.rw = 0 && lineOf v p.bl = p.blLevel

/-- Two bytes that strobe one nibble: EN high and then low, with the same data and the same RS (R91). -/
def strobes (p : Wiring) (v w : Byte) : Bool :=
  wellDriven p v && wellDriven p w && lineOf v p.en = 1 && lineOf w p.en = 0 && dataOf p v = dataOf p w &&
    lineOf v p.rs = lineOf w p.rs

/-- A frame as R91 describes it: one or two strobes, with one RS in all of it. -/
def frameWf (p : Wiring) : List Byte → Bool
  | [a, b] => strobes p a b
  | [a, b, c, d] => strobes p a b && strobes p c d && lineOf a p.rs = lineOf c p.rs
  | _ => false

/-- The frame in `OBUF[0..NW-1]`. -/
def activeFrame (s : State) : List Byte := s.obuf.toList.take s.nw.toNat

/-- An entry of `TRACE` as the block makes it: to `DEV_ADDR`, with RW = 0 and BL = 1 (20_memory.md R41, R91). -/
def entryWf (p : Params) (e : TraceEntry) : Bool := e.addr = p.devAddr && wellDriven p.wiring e.byte

/-- The invariant of the machine. -/
structure Inv (s : State) : Prop where
  /-- The parameters are as 00_scope.md R11 gives them. -/
  config : s.params.wellFormed = true
  /-- "Code 3 is never written" (10_state.md R24). -/
  status : s.status ≠ 3
  /-- `K` is in 0..4 (R22). -/
  stepIndex : s.k ≤ 4
  /-- `LCD.half` is known in `BIT4` only (10_state.md R31; log 10). -/
  half : s.lcd.halfKnown = true → s.lcd.mode = .bit4
  /-- DDRAM is in canonical form. -/
  ddram : ddramWf s.lcd.ddram = true
  /-- Every write so far went to `DEV_ADDR` with RW = 0 and BL = 1 (20_memory.md R41, R91). -/
  trace : s.trace.all (entryWf s.params) = true
  /-- `OUT` is "the last byte the block presented to the transport", and unwritten before the first (R23). -/
  out : (if s.outWritten then some s.out else none) = s.trace.getLast?.map (·.byte)
  /-- In `BUSY` the frame is 2 or 4 bytes long and `K` is below its length (R21, R82). -/
  counts : s.phase = .busy → (s.nw = 2 ∨ s.nw = 4) ∧ s.k < s.nw
  /-- In `BUSY` the frame drives the lines as R91 says. -/
  frame : s.phase = .busy → frameWf s.params.wiring (activeFrame s) = true
  /-- Between the two writes of a strobe the expander holds the first of them (R28, R82). -/
  strobe : s.phase = .busy → s.k = 1 ∨ s.k = 3 → s.obuf[(s.k - 1).toNat]? = some s.exp

/-- The host keeps its duty (60_exceptions.md R126): nothing stands at the port while the block is `BUSY`, and no operation it will
call presents a request without waiting. -/
structure HostDuty (s : State) : Prop where
  port : s.phase = .busy → s.req = none
  waits : ∀ w, HostOp.requestNow w ∉ s.todo

/-- The word the next step has the idle block accept from its port, if any (41_framer.md R81); a byte waiting for the controller is
taken first (log 1). -/
def acceptedWord (s : State) : Option ReqWord :=
  match s.lcd.rx, s.phase with
  | none, .idle => s.req
  | _, _ => none

/-- The words the block accepts in `n` steps from `s`, in order, illegal ones among them: the requests that `initialize` "causes"
(70_reset_and_hazards.md R148). -/
def acceptedWords : Nat → State → List ReqWord
  | 0, _ => []
  | n + 1, s =>
    (acceptedWord s).toList ++
      match step s with
      | .next t => acceptedWords n t
      | .fault _ => []
      | .refused _ => []

/-- Only the controller has moved from `s` to `t`: the block, the expander, the host and the transport's answers are as before. -/
def OnlyController (s t : State) : Prop := t = { s with lcd := t.lcd, frees := t.frees }

end Sys2Proof.Machine
end

