-- ==== Sys2Proof/Certificates/Slice0/Obligations.lean ====
section
/-! DEFINITION. The statements for the provers. Each docstring names the rules of spec/ it formalises; "log <n>" is an entry of the
assumption log where a clause rests on the model's own choice. -/

open Sys2Proof Sys2Proof.Machine

/-! ### Encoding -/

/-- Decoding the word of an instruction gives it back, for every instruction and every operand (30_encoding.md R60, R62, R64). -/
def Obligations.DecodeInvertsEncode : Prop :=
  ∀ i : Instr, i.wellFormed = true → decode (encode i) = .ok i

/-- A word that decodes is the word of what it decodes to, so no two words mean the same instruction (R62). -/
def Obligations.EncodeInvertsDecode : Prop :=
  ∀ (c : Code) (i : Instr), decode c = .ok i → encode i = c

/-- The request words that are illegal (R61): a reserved `OP`, `RES` not 0, or a reserved `ARG` bit set; and what the idle block does
with one: "it sets `STATUS <- ILLEGAL_REQUEST`, issues no bus write and stays `IDLE`". -/
def Obligations.IllegalRequestWords : Prop :=
  ∀ w : ReqWord,
    let reserved : Byte :=
      match (field w 12 4).toNat with
      | 1 => 0xF0 | 2 => 0x00 | 3 => 0x00 | 4 => 0xFF | 5 => 0xFF | 6 => 0xFC | 7 => 0xF8 | 8 => 0xF3 | 9 => 0xE3
      | 10 => 0xB0 | _ => 0x00
    let illegal : Prop := field w 12 4 = 0 ∨ 0xB ≤ field w 12 4 ∨ field w 8 4 ≠ 0 ∨ field w 0 8 &&& reserved ≠ 0
    ((∃ e, decode (.request w) = .error e) ↔ illegal) ∧
    (illegal → ∀ s : State, s.lcd.rx = none → s.phase = .idle → s.req = some w →
      ∃ t, step s = .next t ∧ t.status = statusIllegalRequest ∧ t.phase = .idle ∧ t.trace = s.trace)

/-- Words written out from the tables of R60 and R64, one of each family. -/
def Obligations.SampleWordsDecode : Prop :=
  decodeTableWord 16 0b0001000000000011 = some (.nib 3) ∧
  decodeTableWord 16 0b0010000000101000 = some (.cmd 0x28) ∧
  decodeTableWord 16 0b0011000001001000 = some (.data 0x48) ∧
  decodeTableWord 16 0b0110000000000010 = some (.entry 1 0) ∧
  decodeTableWord 16 0b0111000000000110 = some (.dispctl 1 1 0) ∧
  decodeTableWord 16 0b1000000000001000 = some (.shift 1 0) ∧
  decodeTableWord 16 0b1001000000001000 = some (.funcset 0 1 0) ∧
  decodeTableWord 16 0b1010000001000101 = some (.setddram 1 5) ∧
  decodeTableWord 8 0b00101000 = some (.hdFuncset 0 1 0 0) ∧
  decodeTableWord 8 0b11000101 = some (.hdSetDdram 0x45)

/-- "The family of a command byte is fixed by its highest set bit" (R65): the decoder's masks agree with that, and 0x00 is in no
family. -/
def Obligations.FamilyByHighestBit : Prop :=
  ∀ b : Byte,
    (match decode (.command b) with
      | .ok i => instrFamily i
      | .error _ => none) = familyOf b

/-- Every byte of the command encoder is the controller instruction of its name, with the same operands and every don't-care bit 0
(42_command_encoder.md R94 to R100; 30_encoding.md R64, R66), for the parameters of R11. -/
def Obligations.EncoderBytesAreControllerInstructions : Prop :=
  ∀ p : Params, p.wellFormed = true →
    decode (.command (encClear p)) = .ok .hdClear ∧
    decode (.command (encHome p)) = .ok (.hdHome 0) ∧
    (∀ id s, decode (.command (encEntry p id s)) = .ok (.hdEntry id s)) ∧
    (∀ d c b, decode (.command (encDispctl p d c b)) = .ok (.hdDispctl d c b)) ∧
    (∀ sc rl, decode (.command (encShift p sc rl)) = .ok (.hdShift sc rl 0)) ∧
    (∀ dl nl f, decode (.command (encFuncset p dl nl f)) = .ok (.hdFuncset dl nl f 0)) ∧
    (∀ (row : Bit) (col : Nibble),
      decode (.command (encDdram p (row.setWidth 8) (col.setWidth 8))) = .ok (.hdSetDdram (cellAddr p row col)))

/-- "As a function, `enc_ddram` masks its operands" (42_command_encoder.md R100), and on the 32 positions it gives the cell's address
`(row << 6) | column` (20_memory.md R48), for the parameters of R11. -/
def Obligations.DdramAddressMasksItsOperands : Prop :=
  ∀ (p : Params) (row col : Byte), p.wellFormed = true →
    encDdram p row col = 0x80#8 ||| (row &&& 1) <<< 6 ||| (col &&& 0xF) ∧
    encDdram p row col = 0x80#8 ||| (cellAddr p (row.setWidth 1) (col.setWidth 4)).setWidth 8 ∧
    (row ≤ 1 → col ≤ 15 → encDdram p row col = 0x80#8 ||| row <<< 6 ||| col)

/-- The lines of R68 and R69 with their ranges and words: "An operand outside its range is an assembly error. It is never masked into
range" (30_encoding.md R68), and each pseudo-instruction expands to exactly one request (R69). That a `CHAR` numeral has the range of
`DATA` is the model's choice (log 27). Every word an assembly gives is a legal request. -/
def Obligations.AssemblerNeverMasks : Prop :=
  let n16 (n : Nat) : ReqWord := BitVec.ofNat 16 n
  (∀ n, assemble (.nib n) = if n ≤ 15 then some (0x1000#16 ||| n16 n) else none) ∧
  (∀ b, assemble (.cmd b) = if b ≤ 255 then some (0x2000#16 ||| n16 b) else none) ∧
  (∀ b, assemble (.data b) = if b ≤ 255 then some (0x3000#16 ||| n16 b) else none) ∧
  assemble .clear = some 0x4000 ∧
  assemble .home = some 0x5000 ∧
  (∀ id s, assemble (.entry id s) =
    if id ≤ 1 ∧ s ≤ 1 then some (0x6000#16 ||| n16 id <<< 1 ||| n16 s) else none) ∧
  (∀ d c b, assemble (.dispctl d c b) =
    if d ≤ 1 ∧ c ≤ 1 ∧ b ≤ 1 then some (0x7000#16 ||| n16 d <<< 2 ||| n16 c <<< 1 ||| n16 b) else none) ∧
  (∀ sc rl, assemble (.shift sc rl) =
    if sc ≤ 1 ∧ rl ≤ 1 then some (0x8000#16 ||| n16 sc <<< 3 ||| n16 rl <<< 2) else none) ∧
  (∀ dl nl f, assemble (.funcset dl nl f) =
    if dl ≤ 1 ∧ nl ≤ 1 ∧ f ≤ 1 then some (0x9000#16 ||| n16 dl <<< 4 ||| n16 nl <<< 3 ||| n16 f <<< 2) else none) ∧
  (∀ row col, assemble (.setddram row col) =
    if row ≤ 1 ∧ col ≤ 15 then some (0xA000#16 ||| n16 row <<< 6 ||| n16 col) else none) ∧
  (∀ c b, assemble (.dispon c b) = if c ≤ 1 ∧ b ≤ 1 then some (0x7004#16 ||| n16 c <<< 1 ||| n16 b) else none) ∧
  assemble .dispoff = some 0x7000 ∧
  assemble .cursorl = some 0x8000 ∧
  assemble .cursorr = some 0x8004 ∧
  assemble .scrolll = some 0x8008 ∧
  assemble .scrollr = some 0x800C ∧
  assemble .func4bit2l = some 0x9008 ∧
  assemble .entryinc = some 0x6002 ∧
  (∀ c, assemble (.char c) = if c ≤ 255 then some (0x3000#16 ||| n16 c) else none) ∧
  (∀ row col, assemble (.pos row col) =
    if row ≤ 1 ∧ col ≤ 15 then some (0xA000#16 ||| n16 row <<< 6 ||| n16 col) else none) ∧
  ∀ a w, assemble a = some w → ∃ i, decode (.request w) = .ok i

/-! ### Reset -/

/-- The reset values the spec gives (70_reset_and_hazards.md R140, R141; 10_state.md R36), for every configuration. -/
def Obligations.ResetValues : Prop :=
  ∀ p : Params,
    let s := State.resetWith p
    readPhase s = .idle ∧ readStatus s = some statusOk ∧ s.trace = [] ∧
    readOut s = .error .outUnwritten ∧ s.lcd.mode = .unknown ∧ readHalf s = none ∧ s.session.ready = false

/-- `OUT` reads as the last byte presented (R23), and its read faults before the first write: after any step, a read of `OUT` gives
the byte of the last entry of `TRACE`; and "it is written once per `BusWrite`", so a step with no write leaves it. -/
def Obligations.OutReadsLastByte : Prop :=
  ∀ s t : State, Inv s → step s = .next t →
    (readOut t = match t.trace.getLast? with
      | some e => .ok e.byte
      | none => .error .outUnwritten) ∧
    (t.trace = s.trace → t.out = s.out ∧ t.outWritten = s.outWritten)

/-! ### The invariant -/

/-- The invariant holds after reset, for every configuration with the parameters of R11, and so for the default one. -/
def Obligations.ResetMeetsInvariant : Prop :=
  (∀ p : Params, p.wellFormed = true → Inv (State.resetWith p)) ∧ Inv State.reset

/-- Every step keeps the invariant: `STATUS` is never 3 (R24), `K` stays in 0..4 (R22), every write goes to `DEV_ADDR` with RW = 0 and
BL = 1 (20_memory.md R41, 41_framer.md R91), a frame in flight is well formed (R91), `LCD.half` is known in `BIT4` only (10_state.md R31;
log 10), and DDRAM stays in canonical form. -/
def Obligations.StepKeepsInvariant : Prop :=
  ∀ s t : State, Inv s → step s = .next t → Inv t

/-- "A claim about a run must take 'no `Overlap` recorded' as a premise" (60_exceptions.md R126): a host that keeps its duty never
meets it. From every state with the invariant and the duty a step answers a next state, which has both. -/
def Obligations.DutifulHostNeverStops : Prop :=
  ∀ s : State, Inv s → HostDuty s → ∃ t, step s = .next t ∧ Inv t ∧ HostDuty t

/-- The configuration "is fixed for the life of a block instance, and no request changes it" (10_state.md R25). -/
def Obligations.StepKeepsConfiguration : Prop :=
  ∀ s t : State, step s = .next t → t.params = s.params

/-- "One step is one transport write" (41_framer.md R82): a step of the busy block adds one entry to `TRACE`, and no other step
adds any. -/
def Obligations.StepAddsAtMostOneWrite : Prop :=
  ∀ s t : State, step s = .next t →
    (s.phase = .busy ∧ s.lcd.rx = none ∧ ∃ v r, t.trace = s.trace ++ [⟨s.params.devAddr, v, r⟩]) ∨
    ((s.phase = .idle ∨ s.lcd.rx ≠ none) ∧ t.trace = s.trace)

/-- "The block neither reads it nor writes it" (10_state.md R33): the session changes in a step of the host alone. -/
def Obligations.OnlyHostWritesSession : Prop :=
  ∀ s t : State, step s = .next t → t.session ≠ s.session → s.phase = .idle ∧ s.req = none ∧ s.lcd.rx = none

/-- A step of the host leaves the block, `EXP`, the controller, `TRACE` and the configuration as they were (00_scope.md R10; log 1), and
only the acceptance of a word at the port, with `K` = 0 and the frame that `exec` of it loads, makes an idle block `BUSY`
(41_framer.md R81). -/
def Obligations.HostStepFrame : Prop :=
  (∀ s t : State, s.lcd.rx = none → s.phase = .idle → s.req = none → step s = .next t →
    t = { s with
      req := t.req, session := t.session, todo := t.todo, task := t.task, report := t.report, answers := t.answers,
      drawn := t.drawn }) ∧
  ∀ s t : State, s.phase = .idle → step s = .next t → t.phase = .busy →
    s.lcd.rx = none ∧ t.k = 0 ∧
      ∃ w i, s.req = some w ∧ decode (.request w) = .ok i ∧ instrFamily i = none ∧
        exec i { s with req := none } = .next t

/-- The block reads neither `TRACE` (10_state.md R32), nor `EXP`, nor the controller (R31, 20_memory.md R41), nor the session (R33): two
states that differ in those alone step alike as far as the block goes. -/
def Obligations.BlockReadsNothingBack : Prop :=
  ∀ (s t : State) (tr : List TraceEntry) (e : Byte) (l : Lcd) (se : Session) (f : Nat),
    s.lcd.rx = none → l.rx = none → (s.phase = .busy ∨ s.req ≠ none) → step s = .next t →
    ∃ u, step { s with trace := tr, exp := e, lcd := l, session := se, frees := f } = .next u ∧
      u.phase = t.phase ∧ u.obuf = t.obuf ∧ u.nw = t.nw ∧ u.k = t.k ∧ u.out = t.out ∧ u.status = t.status ∧
      u.answers = t.answers ∧ u.drawn = t.drawn ∧
      ∃ new, t.trace = s.trace ++ new ∧ u.trace = tr ++ new

/-! ### The step runs the decoded instruction -/

/-- The idle block runs the request at its port (41_framer.md R81): the step is `exec` of it, with the port emptied. -/
def Obligations.StepRunsPresentedRequest : Prop :=
  ∀ (s : State) (w : ReqWord) (i : Instr),
    s.lcd.rx = none → s.phase = .idle → s.req = some w → decode (.request w) = .ok i →
    step s = exec i { s with req := none }

/-- The controller runs the command byte delivered to it (R90): the step is `exec` of it, with the byte taken. -/
def Obligations.StepRunsDeliveredInstruction : Prop :=
  ∀ (s : State) (b : Byte) (i : Instr),
    s.lcd.rx = some ⟨b, 0⟩ → decode (.command b) = .ok i →
    step s = exec i { s with lcd := { s.lcd with rx := none } }

/-- A word of the opcode table that decodes is run by the next step from any state it is placed in (log 25), and the step answers a
next state. -/
def Obligations.TableWordRuns : Prop :=
  ∀ (s : State) (nbits w : Nat) (i : Instr), decodeTableWord nbits w = some i →
    ∃ u t, step (s.withFetchWord nbits w) = exec i u ∧ exec i u = .next t ∧
      u.lcd.rx = none ∧ u.obuf = s.obuf ∧ u.trace = s.trace ∧ u.lcd.regs = s.lcd.regs ∧ u.lcd.ddram = s.lcd.ddram

/-! ### Requests -/

/-- `ILLEGAL_REQUEST` (60_exceptions.md R125): the illegal word leaves the port and `STATUS` says so; nothing else changes. -/
def Obligations.IllegalRequestSetsStatusOnly : Prop :=
  ∀ (s : State) (w : ReqWord) (e : DecodeError),
    s.lcd.rx = none → s.phase = .idle → s.req = some w → decode (.request w) = .error e →
    step s = .next { s with req := none, status := statusIllegalRequest }

/-- `Overlap` (R126): a request presented while `PHASE` is `BUSY` is a fault, at the port and for the meaning of every request. -/
def Obligations.RequestWhileBusyIsOverlap : Prop :=
  ∀ s : State, s.phase = .busy →
    (s.lcd.rx = none → presenting s = true → step s = .fault .overlap) ∧
    ∀ i : Instr, instrFamily i = none → exec i s = .fault .overlap

/-- `NIB n` in `IDLE` (41_framer.md R81, R84): the two bytes of R84 are in `OBUF`, `NW` is 2, `K` is 0, `PHASE` is `BUSY`, and nothing
else changes. -/
def Obligations.NibAccepted : Prop :=
  ∀ (n : Nibble) (s : State), s.params.wellFormed = true → s.phase = .idle →
    let p := s.params.wiring
    let d : Byte := n.setWidth 8 <<< 4
    let bl : Byte := 1#8 <<< p.bl.val
    let en : Byte := 1#8 <<< p.en.val
    exec (.nib n) s =
      .next { s with obuf := #v[d ||| bl ||| en, d ||| bl, s.obuf[2], s.obuf[3]], nw := 2, k := 0, phase := .busy }

/-- `CMD b` in `IDLE` (R81, R85): the four bytes of R85 are in `OBUF`, high nibble first, RS low, and nothing else changes but `NW`, `K`
and `PHASE`. -/
def Obligations.CmdAccepted : Prop :=
  ∀ (b : Byte) (s : State), s.params.wellFormed = true → s.phase = .idle →
    let p := s.params.wiring
    let hi : Byte := b &&& 0xF0
    let lo : Byte := (b <<< 4) &&& 0xF0
    let bl : Byte := 1#8 <<< p.bl.val
    let en : Byte := 1#8 <<< p.en.val
    exec (.cmd b) s =
      .next { s with obuf := #v[hi ||| bl ||| en, hi ||| bl, lo ||| bl ||| en, lo ||| bl], nw := 4, k := 0, phase := .busy }

/-- `DATA b` in `IDLE` (R81, R86): as `CMD b`, with RS high on all four bytes. -/
def Obligations.DataAccepted : Prop :=
  ∀ (b : Byte) (s : State), s.params.wellFormed = true → s.phase = .idle →
    let p := s.params.wiring
    let hi : Byte := b &&& 0xF0
    let lo : Byte := (b <<< 4) &&& 0xF0
    let c : Byte := 1#8 <<< p.bl.val ||| 1#8 <<< p.rs.val
    let en : Byte := 1#8 <<< p.en.val
    exec (.data b) s =
      .next { s with obuf := #v[hi ||| c ||| en, hi ||| c, lo ||| c ||| en, lo ||| c], nw := 4, k := 0, phase := .busy }

/-- The seven command requests in `IDLE` (42_command_encoder.md R102 to R108): each frames its command byte with RS low, and nothing
else changes but `NW`, `K` and `PHASE`. -/
def Obligations.CommandRequestsAccepted : Prop :=
  ∀ s : State, s.params.wellFormed = true → s.phase = .idle →
    let p := s.params.wiring
    let bl : Byte := 1#8 <<< p.bl.val
    let en : Byte := 1#8 <<< p.en.val
    let sent (b : Byte) : State :=
      let hi : Byte := b &&& 0xF0
      let lo : Byte := (b <<< 4) &&& 0xF0
      { s with obuf := #v[hi ||| bl ||| en, hi ||| bl, lo ||| bl ||| en, lo ||| bl], nw := 4, k := 0, phase := .busy }
    exec .clear s = .next (sent 0x01) ∧
    exec .home s = .next (sent 0x02) ∧
    (∀ id sh, exec (.entry id sh) s = .next (sent (0x04#8 ||| id.setWidth 8 <<< 1 ||| sh.setWidth 8))) ∧
    (∀ d c b, exec (.dispctl d c b) s =
      .next (sent (0x08#8 ||| d.setWidth 8 <<< 2 ||| c.setWidth 8 <<< 1 ||| b.setWidth 8))) ∧
    (∀ sc rl, exec (.shift sc rl) s = .next (sent (0x10#8 ||| sc.setWidth 8 <<< 3 ||| rl.setWidth 8 <<< 2))) ∧
    (∀ dl nl f, exec (.funcset dl nl f) s =
      .next (sent (0x20#8 ||| dl.setWidth 8 <<< 4 ||| nl.setWidth 8 <<< 3 ||| f.setWidth 8 <<< 2))) ∧
    (∀ row col, exec (.setddram row col) s = .next (sent (0x80#8 ||| row.setWidth 8 <<< 6 ||| col.setWidth 8)))

/-- "The two are distinct words with identical behaviour" (R109): a command request does in every state what the raw `CMD` of its
byte does, its word is another, and RS is 0 in every byte of the frame. -/
def Obligations.CommandRequestIsRawCommand : Prop :=
  ∀ s : State,
    exec .clear s = exec (.cmd (encClear s.params)) s ∧
    exec .home s = exec (.cmd (encHome s.params)) s ∧
    (∀ id sh, exec (.entry id sh) s = exec (.cmd (encEntry s.params id sh)) s) ∧
    (∀ d c b, exec (.dispctl d c b) s = exec (.cmd (encDispctl s.params d c b)) s) ∧
    (∀ sc rl, exec (.shift sc rl) s = exec (.cmd (encShift s.params sc rl)) s) ∧
    (∀ dl nl f, exec (.funcset dl nl f) s = exec (.cmd (encFuncset s.params dl nl f)) s) ∧
    (∀ (row : Bit) (col : Nibble),
      exec (.setddram row col) s = exec (.cmd (encDdram s.params (row.setWidth 8) (col.setWidth 8))) s) ∧
    (∀ (i : Instr) (b : Byte), instrFamily i = none → encode i = encode (.cmd b) → i = .cmd b) ∧
    (s.params.wiring.wellFormed = true → s.phase = .idle → ∀ (b : Byte) (t : State), exec (.cmd b) s = .next t →
      ∀ v ∈ activeFrame t, lineOf v t.params.wiring.rs = 0)

/-- "No byte is produced by two different requests" (R110): two command requests that do the same in an idle block are the same
request. -/
def Obligations.CommandRequestsSendDistinctBytes : Prop :=
  ∀ (s : State) (i j : Instr), s.phase = .idle → s.params.wellFormed = true →
    (instrFamily i = none ∧ (∀ n, i ≠ .nib n) ∧ (∀ b, i ≠ .cmd b) ∧ ∀ b, i ≠ .data b) →
    (instrFamily j = none ∧ (∀ n, j ≠ .nib n) ∧ (∀ b, j ≠ .cmd b) ∧ ∀ b, j ≠ .data b) →
    exec i s = exec j s → i = j

/-! ### Frames -/

/-- The frame invariants (41_framer.md R91), for every wiring: RW = 0 and BL = 1 in every byte, one RS per frame, EN runs 1, 0 or 1, 0, 1, 0,
and the two bytes of a pair carry the same data. -/
def Obligations.FramesAreWellDriven : Prop :=
  ∀ p : Wiring, p.wellFormed = true →
    (∀ n, frameWf p (frameNibble p n) = true) ∧
    (∀ n, (frameNibble p n).map hiNibble = [n, n]) ∧
    (∀ b rs, frameWf p (frameByte p b rs) = true) ∧
    (∀ b rs, (frameByte p b rs).map hiNibble = [hiNibble b, hiNibble b, loNibble b, loNibble b]) ∧
    (∀ b rs, (frameByte p b rs).map (fun v => lineOf v p.rs) = [rs, rs, rs, rs])

/-- "A completed byte frame causes exactly two latches, and a completed nibble frame exactly one" (41_framer.md R91): from whatever the
expander holds and whatever is drawn, the bytes of a frame latch the nibble with RS low, or the high and then the low nibble with
the frame's RS (R89; 95_test_vectors.md L2-7). -/
def Obligations.FrameLatches : Prop :=
  ∀ (p : Wiring) (e : Byte) (draw : Byte × Byte → Draw), p.wellFormed = true →
    let latches (seq : List Byte) : List (Nibble × Bit) :=
      (List.zip (e :: seq) seq).filterMap fun x => latchOf p (draw x) x.1 x.2
    (∀ n, latches (frameNibble p n) = [(n, 0)]) ∧
    ∀ b rs, latches (frameByte p b rs) = [(hiNibble b, rs), (loNibble b, rs)]

/-- The framing functions (R87, R88), for every wiring of R11: their bytes, and "`frameByte(b, 0)` is `frameNibble(b[7:4]) ++
frameNibble(b[3:0])`". -/
def Obligations.FramingFunctions : Prop :=
  ∀ p : Wiring, p.wellFormed = true →
    let bl : Byte := 1#8 <<< p.bl.val
    let en : Byte := 1#8 <<< p.en.val
    (∀ (b : Byte) (rs : Bit),
      let c : Byte := bl ||| (if rs = 1 then 1#8 <<< p.rs.val else 0)
      let hi : Byte := b &&& 0xF0
      let lo : Byte := (b <<< 4) &&& 0xF0
      frameByte p b rs = [hi ||| c ||| en, hi ||| c, lo ||| c ||| en, lo ||| c]) ∧
    (∀ n : Nibble,
      let d : Byte := n.setWidth 8 <<< 4
      frameNibble p n = [d ||| bl ||| en, d ||| bl]) ∧
    ∀ b : Byte, frameByte p b 0 = frameNibble p (b.extractLsb' 4 4) ++ frameNibble p (b.extractLsb' 0 4)

/-! ### Emission -/

/-- The emission step (R82): with `K` below `NW` the byte `OBUF[K]` is presented, whatever the answer; a failure ends the request with
`TRANSPORT_FAILURE`, the last success ends it with `OK`, and any other success goes on to the next byte. The frame, `DEV_ADDR`, the
port and the host's fields are as before. -/
def Obligations.EmissionIsOneWrite : Prop :=
  ∀ (s : State) (h : s.k.toNat < 4), s.lcd.rx = none → s.phase = .busy → presenting s = false → s.k < s.nw →
    let v := s.obuf[s.k.toNat]
    let r := (answerAt s 0).result
    ∃ t, step s = .next t ∧
      t.out = v ∧ readOut t = .ok v ∧
      t.trace = s.trace ++ [⟨s.params.devAddr, v, r⟩] ∧
      (r = .fail → t.status = statusTransportFailure ∧ t.phase = .idle) ∧
      (r = .ok → s.k + 1 = s.nw → t.status = statusOk ∧ t.phase = .idle) ∧
      (r = .ok → s.k + 1 ≠ s.nw → t.k = s.k + 1 ∧ t.status = s.status ∧ t.phase = .busy) ∧
      t.params = s.params ∧ t.obuf = s.obuf ∧ t.nw = s.nw ∧ t.req = s.req ∧
      t.session = s.session ∧ t.todo = s.todo ∧ t.task = s.task ∧ t.report = s.report

/-- What the emission step does to the expander and the controller (41_framer.md R89; 60_exceptions.md R124): where the byte reaches the
expander, it is driven onto it, and the controller latches what falls out of that; else neither changes. A failure then makes
`LCD.half` unknown and breaks the mandatory sequence (70_reset_and_hazards.md R145, R150), and a completed frame moves or breaks that
sequence (log 12). -/
def Obligations.EmissionDrivesController : Prop :=
  ∀ (s : State) (h : s.k.toNat < 4), s.lcd.rx = none → s.phase = .busy → presenting s = false → s.k < s.nw →
    let v := s.obuf[s.k.toNat]
    let d := answerAt s 0
    let r := if d.result = .ok ∨ d.took = true then drive d v s else s
    ∃ t, step s = .next t ∧ t.exp = r.exp ∧ t.frees = r.frees ∧
      (d.result = .fail → t.lcd = { r.lcd with halfKnown := false, stage := .start }) ∧
      (d.result = .ok → s.k + 1 ≠ s.nw → t.lcd = r.lcd) ∧
      (d.result = .ok → s.k + 1 = s.nw → s.nw ≠ 2 → t.lcd = { r.lcd with stage := .start }) ∧
      (d.result = .ok → s.k + 1 = s.nw → s.nw = 2 → t.lcd = (completeNibble (dataOf s.params.wiring v) r).lcd)

/-- A request from end to end (41_framer.md R90, R91; 95_test_vectors.md L2-7): in `BIT4`, with `LCD.half` HI, EN low and every write answered
`ok`, `CMD b` delivers exactly the instruction b and `DATA b` exactly the data b, and `LCD.half` is HI again; `NIB n` delivers nothing
and is recorded as the high nibble, where it does not complete the mandatory sequence. Nothing else of the controller changes but
the progress of that sequence (log 12). -/
def Obligations.FrameReachesController : Prop :=
  ∀ s : State, s.params.wellFormed = true → s.phase = .idle → presenting s = false → s.lcd.rx = none →
    s.lcd.mode = .bit4 → s.lcd.half = .hi → lineOf s.exp s.params.wiring.en = 0 →
    (∀ j, j < 4 → (answerAt s j).result = .ok) →
    (∀ b, ∃ u t, exec (.cmd b) s = .next u ∧ Host.Core.run core 4 u = .next t ∧ t.phase = .idle ∧ t.status = statusOk ∧
      t.lcd = { s.lcd with rx := some ⟨b, 0⟩, received := s.lcd.received ++ [.instruction b], stage := .start }) ∧
    (∀ b, ∃ u t, exec (.data b) s = .next u ∧ Host.Core.run core 4 u = .next t ∧ t.phase = .idle ∧ t.status = statusOk ∧
      t.lcd = { s.lcd with rx := some ⟨b, 1⟩, received := s.lcd.received ++ [.data b], stage := .start }) ∧
    ∀ n, s.lcd.stage ≠ .three ∨ n ≠ 2 →
      ∃ u t, exec (.nib n) s = .next u ∧ Host.Core.run core 2 u = .next t ∧ t.phase = .idle ∧ t.status = statusOk ∧
        t.lcd = { s.lcd with half := .lo n 0, stage := t.lcd.stage }

/-- `K` counts the successful writes (10_state.md R22): "Acceptance sets it to 0. Each successful write adds 1. The request completes when
it reaches `NW`" (log 7). -/
def Obligations.StepIndexCountsWrites : Prop :=
  (∀ (seq : List Byte) (s t : State), acceptFrame seq s = .next t → t.k = 0) ∧
  ∀ s t : State, Inv s → s.lcd.rx = none → s.phase = .busy → step s = .next t →
    ((answerAt s 0).result = .ok → t.k = s.k + 1 ∧ (t.phase = .idle ↔ t.k = t.nw)) ∧
    ((answerAt s 0).result = .fail → t.k = s.k)

/-- `EXP` (R28): "A write that succeeds sets `EXP` to the byte written. A write that fails leaves `EXP` either unchanged or equal to the byte
written; which of the two is a draw." No other step changes it. -/
def Obligations.ExpanderAfterWrite : Prop :=
  ∀ s t : State, step s = .next t →
    (s.lcd.rx = none ∧ s.phase = .busy ∧
      ∃ v, nextByte s = some v ∧
        ((answerAt s 0).result = .ok → t.exp = v) ∧
        ((answerAt s 0).result = .fail → t.exp = if (answerAt s 0).took then v else s.exp)) ∨
    ((s.lcd.rx ≠ none ∨ s.phase = .idle) ∧ t.exp = s.exp)

/-- The effect of `TRANSPORT_FAILURE` (60_exceptions.md R123): the request ends at the failing write, whose byte is the next of the
frame, the writes before it stay in `TRACE`, and any legal request is accepted at once. The block does not retry and sends nothing
more of the frame: in any number of steps it stays `IDLE` and `TRACE` stays as it is, until it accepts a legal word, with `K` = 0
and the frame that `exec` of that word loads. -/
def Obligations.FailureEndsRequest : Prop :=
  ∀ s t : State, Inv s → s.lcd.rx = none → s.phase = .busy → (answerAt s 0).result = .fail → step s = .next t →
    t.phase = .idle ∧ t.status = statusTransportFailure ∧
    (∃ v, nextByte s = some v ∧ t.trace = s.trace ++ [⟨s.params.devAddr, v, .fail⟩]) ∧
    (∀ i : Instr, instrFamily i = none → ∃ u, exec i t = .next u ∧ u.phase = .busy) ∧
    ∀ (n : Nat) (u : State), Host.Core.run core n t = .next u →
      (u.phase = .idle ∧ u.trace = t.trace) ∨
      ∃ m x y w i, m < n ∧ Host.Core.run core m t = .next x ∧ x.phase = .idle ∧ x.trace = t.trace ∧ x.req = some w ∧
        decode (.request w) = .ok i ∧ step x = .next y ∧ exec i { x with req := none } = .next y ∧ y.k = 0

/-- "A model sets `LCD.half` to unknown after any failure" (70_reset_and_hazards.md R150). -/
def Obligations.FailureMakesHalfUnknown : Prop :=
  ∀ s t : State, s.lcd.rx = none → s.phase = .busy → (answerAt s 0).result = .fail → step s = .next t →
    readHalf t = none

/-- "No write lowers `EN` while changing data or `RS`" (41_framer.md R91): under the invariant, what the controller latches of the next write
does not depend on the draw of R89. -/
def Obligations.NoWriteDisturbsLatch : Prop :=
  ∀ (s : State) (v : Byte) (d d' : Draw), Inv s → s.phase = .busy → nextByte s = some v →
    latchOf s.params.wiring d s.exp v = latchOf s.params.wiring d' s.exp v

/-- "A completed frame leaves `EXP` with `EN` = 0" (R91). -/
def Obligations.CompletedFrameLowersEnable : Prop :=
  ∀ s t : State, Inv s → s.lcd.rx = none → s.phase = .busy → (answerAt s 0).result = .ok → step s = .next t →
    t.phase = .idle → t.status = statusOk ∧ lineOf t.exp t.params.wiring.en = 0

/-- The request as a whole (R83): from a frame just accepted, with no request presented, some number of steps ends in `IDLE` with the
status of `run` and with exactly the writes of `run` added to `TRACE`, for whatever answers the transport gives. -/
def Obligations.RequestRunsToItsStatus : Prop :=
  ∀ s : State, Inv s → s.phase = .busy → s.k = 0 → presenting s = false →
    let r := runFrame s.params.devAddr (answerAt s) (activeFrame s)
    ∃ n t, Host.Core.run core n s = .next t ∧ t.phase = .idle ∧ t.status = r.1 ∧ t.trace = s.trace ++ r.2 ∧
      t.task = s.task ∧ t.todo = s.todo ∧ t.session = s.session ∧ t.req = s.req

/-- What `run(seq)` adds to `TRACE` (41_framer.md R83): a frame that ends `OK` has added all its bytes; one that fails has added from 1
up to all of them, the last of them the failing one. -/
def Obligations.WriteCounts : Prop :=
  ∀ (a : BusAddr) (ans : Nat → Draw) (seq : List Byte), seq ≠ [] →
    let r := runFrame a ans seq
    (r.1 = statusOk → r.2.map (·.byte) = seq ∧ ∀ e ∈ r.2, e.result = .ok) ∧
    (r.1 ≠ statusOk → r.1 = statusTransportFailure ∧ 1 ≤ r.2.length ∧ r.2.length ≤ seq.length ∧
      r.2.map (·.byte) = seq.take r.2.length ∧ (r.2.getLast?.map (·.result)) = some .fail)

/-- The write counts and latches of R92: `NIB` issues 2 writes that latch once, `CMD`, `DATA` and every encoder request 4 that latch
twice, an illegal word none; "a failed request issues fewer, from 1 up to the number in the table". -/
def Obligations.RequestWriteCounts : Prop :=
  ∀ s : State, s.params.wellFormed = true → s.phase = .idle → presenting s = false → s.lcd.rx = none →
    (∀ w e, decode (.request w) = .error e → ∃ t, step { s with req := some w } = .next t ∧ t.phase = .idle ∧ t.trace = s.trace) ∧
    ∀ i : Instr, instrFamily i = none →
      let writes : Nat := match i with | .nib _ => 2 | _ => 4
      ∃ u n t es, exec i s = .next u ∧ Host.Core.run core n u = .next t ∧ t.phase = .idle ∧
        (activeFrame u).length = writes ∧ t.trace = s.trace ++ es ∧
        (t.status = statusOk → es.map (·.byte) = activeFrame u ∧ ∀ e ∈ es, e.result = .ok) ∧
        (t.status ≠ statusOk → t.status = statusTransportFailure ∧ 1 ≤ es.length ∧ es.length ≤ writes ∧
          es.map (·.byte) = (activeFrame u).take es.length) ∧
        ∀ d : Draw,
          2 * ((List.zip (s.exp :: activeFrame u) (activeFrame u)).filterMap
            fun x => latchOf s.params.wiring d x.1 x.2).length = writes

/-! ### What the controller receives -/

/-- The latch (41_framer.md R89): a byte that reaches the expander latches exactly where it turns EN from 1 to 0, and what it latches is the
nibble and the RS held across that edge; it is one of the old and the new where they differ. -/
def Obligations.LatchOnFallingEnable : Prop :=
  ∀ (p : Wiring) (d : Draw) (old new : Byte), p.wellFormed = true →
    ((latchOf p d old new).isSome = true ↔ lineOf old p.en = 1 ∧ lineOf new p.en = 0) ∧
    ∀ n rs, latchOf p d old new = some (n, rs) →
      (n = hiNibble old ∨ n = hiNibble new) ∧ (rs = lineOf old p.rs ∨ rs = lineOf new p.rs)

/-- A byte that lowers EN reaches the controller as its latched nibble, and one that does not lower it changes `EXP` alone (R89). -/
def Obligations.DriveLatchesOrHolds : Prop :=
  ∀ (d : Draw) (v : Byte) (s : State),
    (latchOf s.params.wiring d s.exp v = none → drive d v s = { s with exp := v }) ∧
    ∀ n rs, latchOf s.params.wiring d s.exp v = some (n, rs) → drive d v s = latch n rs { s with exp := v }

/-- Byte assembly (R90). In 4-bit mode a high nibble is recorded with its RS; a low nibble of the same RS delivers the byte, as an
instruction or as data, and the next nibble is a high one again. A low nibble of another RS delivers nothing and leaves the
controller's state open, and so does a latch in any other mode (93 U5, U7): its mode is `UNKNOWN` and `LCD.half` not known, the
model's reading of "any value" (log 10, log 11). -/
def Obligations.NibblesPairHighFirst : Prop :=
  ∀ (s : State) (n : Nibble) (rs : Bit),
    let t := latch n rs s
    (s.lcd.mode = .bit4 → s.lcd.half = .hi → t = { s with lcd := { s.lcd with half := .lo n rs } }) ∧
    (s.lcd.mode = .bit4 → ∀ n0, s.lcd.half = .lo n0 rs →
      t = { s with lcd := { s.lcd with
        half := .hi
        rx := some ⟨n0 ++ n, rs⟩
        received := s.lcd.received ++ [if rs = 0 then .instruction (n0 ++ n) else .data (n0 ++ n)] } }) ∧
    ((s.lcd.mode ≠ .bit4 ∨ ∃ n0 rs0, s.lcd.half = .lo n0 rs0 ∧ rs0 ≠ rs) →
      OnlyController s t ∧ t.lcd.mode = .unknown ∧ readHalf t = none ∧ t.lcd.rx = s.lcd.rx ∧ t.lcd.stage = s.lcd.stage ∧
        t.lcd.received = s.lcd.received ++ [.unspecified])

/-- The mandatory sequence (70_reset_and_hazards.md R145): from every start state of the controller, the host's step 3 with every write
answered `ok` ends with `LCD.mode = BIT4` and `LCD.half = HI`, the block having accepted exactly the requests `NIB 3, 3, 3, 2` and sent their eight bytes. -/
def Obligations.HandshakeReachesFourBit : Prop :=
  ∀ (s : State) (ds rest : List Draw) (more : List HostAct),
    s.params.wellFormed = true → s.phase = .idle → s.req = none → s.task = nibbleHandshake ++ more →
    s.answers = ds ++ rest → ds.length = 8 → (∀ d ∈ ds, d.result = .ok) →
    ∃ n t, Host.Core.run core n s = .next t ∧
      t.phase = .idle ∧ t.status = statusOk ∧ t.lcd.mode = .bit4 ∧ readHalf t = some .hi ∧ t.task = more ∧
      acceptedWords n s = [0x1003, 0x1003, 0x1003, 0x1002] ∧
      t.trace = s.trace ++
        ((frameNibble s.params.wiring 3 ++ frameNibble s.params.wiring 3 ++ frameNibble s.params.wiring 3 ++
          frameNibble s.params.wiring 2).map fun v => ⟨s.params.devAddr, v, .ok⟩)

/-! ### The controller's instructions -/

/-- Clear (42_command_encoder.md R102): every DDRAM address holds a space and the address is 0; nothing else changes (log 15). -/
def Obligations.ControllerClear : Prop :=
  ∀ s : State, ∃ m : Ddram, (∀ a, ddramRead m a = 0x20) ∧
    exec .hdClear s =
      .next { s with lcd := { s.lcd with ddram := m, regs := { s.lcd.regs with ac := 0, acDdram := 1 } } }

/-- Return home, entry mode set, display on/off control and set DDRAM address (30_encoding.md R64; 42_command_encoder.md R96, R97, R100): each
writes its own registers of the controller and nothing else (log 15). For an address that is no cell (bytes 0x90..0xBF and 0xD0..0xFF,
which the encoder never makes: R110, 92 D27, 93 U6) the set-DDRAM clause is the model's reading of R64 (log 18). -/
def Obligations.ControllerRegistersWritten : Prop :=
  ∀ s : State,
    let put (r : LcdRegs) : State := { s with lcd := { s.lcd with regs := r } }
    exec (.hdHome 0) s = .next (put { s.lcd.regs with ac := 0, acDdram := 1 }) ∧
    (∀ id sh, exec (.hdEntry id sh) s = .next (put { s.lcd.regs with entryId := id, entryS := sh })) ∧
    (∀ d c b, exec (.hdDispctl d c b) s = .next (put { s.lcd.regs with dispD := d, dispC := c, dispB := b })) ∧
    (∀ a, exec (.hdSetDdram a) s = .next (put { s.lcd.regs with ac := a, acDdram := 1 }))

/-- Function set (R64, R99, R107): DL selects the interface width, N the lines and F the font, and nothing else changes but that in 8-bit
mode `LCD.half`, which does not apply there, is not known (R31; the model's choice, log 10). -/
def Obligations.ControllerFunctionSet : Prop :=
  ∀ (s : State) (dl nl f : Bit),
    exec (.hdFuncset dl nl f 0) s =
      .next { s with lcd := { s.lcd with
        mode := if dl = 1 then .bit8 else .bit4
        halfKnown := if dl = 1 then false else s.lcd.halfKnown
        regs := { s.lcd.regs with lines := nl, font := f } } }

/-- Cursor or display shift (R64, R98, R106): S/C = 1 shifts the display by one position, right for R/L = 1; S/C = 0 moves the cursor by
one position, the address counter by 1 up for right and down for left. Where that leaves the 7 bits of an address, or the counter
is in no DDRAM, the instruction still completes and only the counter is open (the model's reading of a position and its choice
there: log 16). -/
def Obligations.ControllerShift : Prop :=
  ∀ (s : State) (rl : Bit),
    let put (r : LcdRegs) : State := { s with lcd := { s.lcd with regs := r } }
    exec (.hdShift 1 rl 0) s =
      .next (put { s.lcd.regs with shift := if rl = 1 then s.lcd.regs.shift + 1 else s.lcd.regs.shift - 1 }) ∧
    (s.lcd.regs.acDdram = 1 → s.lcd.regs.ac ≠ (if rl = 1 then 0x7F else 0) →
      exec (.hdShift 0 rl 0) s =
        .next (put { s.lcd.regs with ac := if rl = 1 then s.lcd.regs.ac + 1 else s.lcd.regs.ac - 1 })) ∧
    ∃ t, exec (.hdShift 0 rl 0) s = .next t ∧
      t = { s with frees := t.frees, lcd := { s.lcd with regs := { s.lcd.regs with ac := t.lcd.regs.ac } } }

/-- Command bytes outside the encoder's range (30_encoding.md R67): set CGRAM and the variants with don't-care bits set complete, and leave the
block, the expander, the pairing of nibbles and the host as they were; the controller's registers, DDRAM and mode are open (93 U6, log 11). -/
def Obligations.ControllerOutsideEncoder : Prop :=
  ∀ (s : State) (i : Instr),
    ((∃ a, i = .hdSetCgram a) ∨ i = .hdHome 1 ∨ (∃ sc rl dc, dc ≠ 0 ∧ i = .hdShift sc rl dc) ∨
      (∃ dl nl f dc, dc ≠ 0 ∧ i = .hdFuncset dl nl f dc)) →
    ∃ t, exec i s = .next t ∧ readHalf t = none ∧
      t = { s with frees := t.frees, lcd := { s.lcd with
        mode := t.lcd.mode, halfKnown := t.lcd.halfKnown, regs := t.lcd.regs, ddram := t.lcd.ddram } }

/-- A data byte delivered to the controller (20_memory.md R50; 41_framer.md R86): it is written at the address counter, every other address
keeps its byte, and the counter moves by one as the entry mode says. The block, the expander and the host are as before. The
model's own choices it rests on: the controller takes the byte in a step of its own (log 13), a counter that would leave its 7 bits
is open (log 16), all 128 addresses hold data (log 20), and the bit `acDdram` says that the counter is in DDRAM (log 21); for data
taken while it is 0 see `DeliveredByteIsTaken`. -/
def Obligations.DataByteWrittenAtCounter : Prop :=
  ∀ (s : State) (b : Byte), s.lcd.rx = some ⟨b, 1⟩ → s.lcd.regs.acDdram = 1 → ddramWf s.lcd.ddram = true →
    let a := s.lcd.regs.ac
    ∃ t, step s = .next t ∧
      (∀ x, ddramRead t.lcd.ddram x = if x = a then b else ddramRead s.lcd.ddram x) ∧
      (s.lcd.regs.entryId = 1 → a ≠ 0x7F → t.lcd.regs.ac = a + 1) ∧
      (s.lcd.regs.entryId = 0 → a ≠ 0 → t.lcd.regs.ac = a - 1) ∧
      (s.lcd.regs.entryS = 0 → t.lcd.regs = { s.lcd.regs with ac := t.lcd.regs.ac }) ∧
      t.lcd.regs = { s.lcd.regs with ac := t.lcd.regs.ac, shift := t.lcd.regs.shift } ∧
      t = { s with frees := t.frees, lcd := { s.lcd with rx := none, ddram := t.lcd.ddram, regs := t.lcd.regs } }

/-- Every byte delivered to the controller is taken by the next step, which changes the controller alone (41_framer.md R90; log 13). The
byte 0x00 as an instruction (30_encoding.md R65, R67) and data while the address counter is in no DDRAM (log 21) leave the controller's
state open: its mode is `UNKNOWN` and `LCD.half` not known, the model's reading of "any value" (93 U6; log 11). -/
def Obligations.DeliveredByteIsTaken : Prop :=
  ∀ (s : State) (d : Delivered), s.lcd.rx = some d →
    ∃ t, step s = .next t ∧ OnlyController s t ∧ t.lcd.rx = none ∧ t.lcd.half = s.lcd.half ∧ t.lcd.stage = s.lcd.stage ∧
      t.lcd.received = s.lcd.received ∧
      (d = ⟨0x00, 0⟩ ∨ d.rs = 1 ∧ s.lcd.regs.acDdram = 0 → t.lcd.mode = .unknown ∧ readHalf t = none)

/-! ### The host -/

/-- The host's duty for positions (42_command_encoder.md R101): an invalid position ends in `InvalidPosition` with no request presented and no
write; a valid one presents the word of `SETDDRAM row, col`. -/
def Obligations.PositionCheckedBeforeRequest : Prop :=
  ∀ (s : State) (row col : Nat) (rest : List HostOp),
    s.params.wellFormed = true → s.lcd.rx = none → s.phase = .idle → s.req = none → s.task = [] →
    s.todo = .setPosition row col :: rest →
    ∃ t, Host.Core.run core 2 s = .next t ∧ t.trace = s.trace ∧
      (1 < row ∨ 15 < col → t.report = some .invalidPosition ∧ t.req = none ∧ t.task = []) ∧
      (row ≤ 1 → col ≤ 15 → t.req = some (0xA000#16 ||| BitVec.ofNat 16 row <<< 6 ||| BitVec.ofNat 16 col))

/-- "Turning off always clears cursor/blink flags in the command sent but the session remembers the last requested visible/blinking
values so a subsequent `turnDisplayOn` restores them" (00_scope.md R6): with every write answered `ok`, `setCursor(v, b)`, `turnOff()`,
`turnOn()` from a host that has the display on send on/off-control with the flags, with none, and with the flags again. -/
def Obligations.CursorFlagsSurviveDisplayOff : Prop :=
  ∀ (s : State) (v b : Bit) (ds rest : List Draw) (later : List HostOp),
    s.params.wellFormed = true → s.phase = .idle → s.req = none → s.task = [] →
    s.todo = .setCursor v b :: .turnOff :: .turnOn :: later → s.session.display = 1 → s.answers = ds ++ rest → ds.length = 12 → (∀ d ∈ ds, d.result = .ok) →
    let p := s.params.wiring
    let flags : Byte := 0x0C#8 ||| v.setWidth 8 <<< 1 ||| b.setWidth 8
    ∃ n t, Host.Core.run core n s = .next t ∧
      t.session = { s.session with cursor := v, blink := b } ∧ t.report = some .ok ∧ t.todo = later ∧ t.task = [] ∧
      acceptedWords n s =
        [0x7004#16 ||| v.setWidth 16 <<< 1 ||| b.setWidth 16, 0x7000#16,
          0x7004#16 ||| v.setWidth 16 <<< 1 ||| b.setWidth 16] ∧
      t.trace = s.trace ++
        ((frameByte p flags 0 ++ frameByte p 0x08 0 ++ frameByte p flags 0).map fun x => ⟨s.params.devAddr, x, .ok⟩)

/-- "No partial state is promoted to Ready" (70_reset_and_hazards.md R143, R147): a presence check that fails ends `initialize` with
`DeviceNotFound`, and a failed request of the handshake ends it with `InitializationFailed`; either way no further act follows, no request
is presented and the session is `Uninitialized`. -/
def Obligations.InitFailureLeavesUninitialized : Prop :=
  ∀ (s : State) (more : List HostAct), s.lcd.rx = none → s.phase = .idle → s.req = none →
    (s.task = .probe :: more → (answerAt s 0).result = .fail →
      ∃ t, step s = .next t ∧ t.report = some .deviceNotFound ∧ t.task = [] ∧ t.req = none ∧ t.session.ready = false ∧
        t.trace = s.trace) ∧
    (s.task = .check .initializationFailed :: more → s.status = statusTransportFailure →
      ∃ t, step s = .next t ∧ t.report = some .initializationFailed ∧ t.task = [] ∧ t.req = none ∧
        t.session.ready = false ∧ t.trace = s.trace)

/-- "Given a successful probe and no failure, `initialize` causes exactly the eight block requests" (R148, R146, R147): it ends `Ready` with its
two flags (R147), the block having accepted exactly the eight words, "in that order, with no other request between them", and sent
the 24 bytes of their frames. -/
def Obligations.InitSendsExactlyEightRequests : Prop :=
  ∀ (s : State) (c b : Bit) (ds rest : List Draw) (later : List HostOp),
    s.params.wellFormed = true → s.phase = .idle → s.req = none → s.task = [] → s.todo = .init c b :: later →
    s.answers = ds ++ rest → ds.length = 25 → (∀ d ∈ ds, d.result = .ok) →
    let p := s.params.wiring
    ∃ n t, Host.Core.run core n s = .next t ∧
      t.session.ready = true ∧ t.session.cursor = c ∧ t.session.blink = b ∧ t.report = some .ok ∧ t.status = statusOk ∧
      t.todo = later ∧ t.task = [] ∧
      acceptedWords n s =
        [0x1003#16, 0x1003#16, 0x1003#16, 0x1002#16, 0x9008#16, 0x7004#16 ||| c.setWidth 16 <<< 1 ||| b.setWidth 16, 0x4000#16,
          0x6002#16] ∧
      t.trace = s.trace ++
        ((frameNibble p 3 ++ frameNibble p 3 ++ frameNibble p 3 ++ frameNibble p 2 ++
          frameByte p 0x28 0 ++ frameByte p (0x0C#8 ||| c.setWidth 8 <<< 1 ||| b.setWidth 8) 0 ++
          frameByte p 0x01 0 ++ frameByte p 0x06 0).map fun v => ⟨s.params.devAddr, v, .ok⟩)

/-- "Any transmission failure anywhere in this sequence yields overall `InitializationFailed`; no partial state is promoted to Ready"
(70_reset_and_hazards.md R147): with the presence check answered `ok` and the first failing write at any of the 24 places, `initialize`
ends with `InitializationFailed`, the session `Uninitialized`, the block having accepted exactly the requests up to the one
that failed, and exactly the writes up to the failing one in `TRACE`. That a session that was `Ready` before is `Uninitialized` then is the model's choice (log 22). -/
def Obligations.InitFailsAtFirstFailingWrite : Prop :=
  ∀ (s : State) (c b : Bit) (ds rest : List Draw) (f : Draw) (later : List HostOp),
    s.params.wellFormed = true → s.phase = .idle → s.req = none → s.task = [] → s.todo = .init c b :: later →
    s.answers = ds ++ f :: rest → 1 ≤ ds.length → ds.length ≤ 24 → (∀ d ∈ ds, d.result = .ok) → f.result = .fail →
    let p := s.params.wiring
    let sent :=
      frameNibble p 3 ++ frameNibble p 3 ++ frameNibble p 3 ++ frameNibble p 2 ++ frameByte p 0x28 0 ++
        frameByte p (0x0C#8 ||| c.setWidth 8 <<< 1 ||| b.setWidth 8) 0 ++ frameByte p 0x01 0 ++ frameByte p 0x06 0
    let j := ds.length - 1
    ∃ n t, Host.Core.run core n s = .next t ∧
      t.report = some .initializationFailed ∧ t.session.ready = false ∧ t.status = statusTransportFailure ∧
      t.phase = .idle ∧ t.req = none ∧ t.task = [] ∧ t.todo = later ∧
      acceptedWords n s =
        [0x1003#16, 0x1003#16, 0x1003#16, 0x1002#16, 0x9008#16, 0x7004#16 ||| c.setWidth 16 <<< 1 ||| b.setWidth 16, 0x4000#16,
          0x6002#16].take
          (if j < 8 then j / 2 + 1 else 4 + (j - 8) / 4 + 1) ∧
      t.trace = s.trace ++ (sent.take j).map (fun v => ⟨s.params.devAddr, v, .ok⟩) ++
        [⟨s.params.devAddr, sent.getD j 0, .fail⟩]
end

