-- ==== Sys2Proof/Laws/Memory.lean ====
section
/-! SUPPORT. DDRAM: a write is read back and leaves every other address alone, and every operation keeps the canonical form. -/

namespace Sys2Proof.Machine

theorem cellsFind_insert (a b : Nat) (v : Byte) (cs : List Host.Cell) :
    cellsFind b (cellsInsert a v cs) = if a = b then some v else cellsFind b cs := by
  induction cs with
  | nil => simp [cellsInsert, cellsFind]
  | cons c rest ih =>
    obtain ⟨x, u⟩ := c
    unfold cellsInsert
    split_ifs <;> simp_all [cellsFind]

/-- An address at or below the first of rising cells is not listed after it. -/
theorem cellsFind_above {f : Fill} {a : Nat} {cs : List Host.Cell} (h : cellsAbove a cs = true) (hw : cellsWf f cs = true) :
    cellsFind a cs = none := by
  induction cs generalizing a with
  | nil => rfl
  | cons c rest ih =>
    obtain ⟨x, u⟩ := c
    simp only [cellsAbove, cellsWf, Bool.and_eq_true, decide_eq_true_eq] at h hw
    have hx : cellsAbove a rest = true := by
      cases rest with
      | nil => rfl
      | cons c' _ => simp only [cellsAbove, decide_eq_true_eq] at hw ⊢; omega
    simp [cellsFind, ih hx hw.2, show ¬ x = a by omega]

theorem cellsFind_erase {f : Fill} (a b : Nat) {cs : List Host.Cell} (hw : cellsWf f cs = true) :
    cellsFind b (cellsErase a cs) = if a = b then none else cellsFind b cs := by
  induction cs with
  | nil => simp [cellsErase, cellsFind]
  | cons c rest ih =>
    obtain ⟨x, u⟩ := c
    have hw' := hw
    simp only [cellsWf, Bool.and_eq_true] at hw'
    unfold cellsErase
    by_cases hx : x = a
    · subst hx
      by_cases hb : x = b
      · subst hb; simpa using cellsFind_above hw'.1.1 hw'.2
      · simp [cellsFind, hb]
    · by_cases hb : x = b
      · subst hb; simp [cellsFind, hx, Ne.symm hx]
      · simp [cellsFind, hx, hb, ih hw'.2]

theorem cellsAbove_insert {a b : Nat} {v : Byte} {cs : List Host.Cell} (hb : b < a) (h : cellsAbove b cs = true) :
    cellsAbove b (cellsInsert a v cs) = true := by
  cases cs with
  | nil => simpa [cellsInsert, cellsAbove] using hb
  | cons c rest =>
    obtain ⟨x, u⟩ := c
    simp only [cellsAbove, decide_eq_true_eq] at h
    unfold cellsInsert
    split_ifs <;> simp [cellsAbove, hb, h]

theorem cellsWf_insert {f : Fill} {a : Nat} {v : Byte} {cs : List Host.Cell} (ha : a < 128)
    (hv : v ≠ fillByte f (BitVec.ofNat 7 a)) (hw : cellsWf f cs = true) : cellsWf f (cellsInsert a v cs) = true := by
  induction cs with
  | nil => simp [cellsInsert, cellsWf, cellsAbove, ha, hv]
  | cons c rest ih =>
    obtain ⟨x, u⟩ := c
    have hw' := hw
    simp only [cellsWf, Bool.and_eq_true] at hw'
    unfold cellsInsert
    split_ifs with h1 h2
    · have h3 : cellsAbove a ((x, u) :: rest) = true := by simpa [cellsAbove] using h1
      rw [cellsWf, h3, hw]
      simp [ha, hv]
    · subst h2; simp [cellsWf, ha, hv, hw']
    · have hx : x < a := by omega
      simp [cellsWf, cellsAbove_insert hx hw'.1.1, ih hw'.2]; simpa using hw'.1.2

theorem cellsAbove_erase {f : Fill} {a b : Nat} {cs : List Host.Cell} (hw : cellsWf f cs = true) (h : cellsAbove b cs = true) :
    cellsAbove b (cellsErase a cs) = true := by
  cases cs with
  | nil => rfl
  | cons c rest =>
    obtain ⟨x, u⟩ := c
    simp only [cellsWf, Bool.and_eq_true] at hw
    simp only [cellsAbove, decide_eq_true_eq] at h
    unfold cellsErase
    split_ifs
    · cases rest with
      | nil => rfl
      | cons c' _ =>
        have := hw.1.1
        simp only [cellsAbove, decide_eq_true_eq] at this ⊢
        omega
    · simpa [cellsAbove] using h

theorem cellsWf_erase {f : Fill} {a : Nat} {cs : List Host.Cell} (hw : cellsWf f cs = true) :
    cellsWf f (cellsErase a cs) = true := by
  induction cs with
  | nil => rfl
  | cons c rest ih =>
    obtain ⟨x, u⟩ := c
    have hw' := hw
    simp only [cellsWf, Bool.and_eq_true] at hw'
    unfold cellsErase
    split_ifs
    · exact hw'.2
    · simp [cellsWf, cellsAbove_erase hw'.2 hw'.1.1, ih hw'.2]; simpa using hw'.1.2

/-- A write keeps the canonical form. -/
theorem ddramWrite_wf {m : Ddram} (a : DdAddr) (v : Byte) (hw : ddramWf m = true) : ddramWf (ddramWrite m a v) = true := by
  unfold ddramWrite
  split_ifs with h
  · exact cellsWf_erase hw
  · refine cellsWf_insert a.isLt ?_ hw
    simpa using h

/-- A cleared DDRAM is in canonical form, and so is one with free contents. -/
theorem emptyCells_wf (f : Fill) : ddramWf { fill := f, cells := [] } = true := rfl

/-- What an address reads as after a write. -/
theorem ddramRead_write {m : Ddram} (a b : DdAddr) (v : Byte) (hw : ddramWf m = true) :
    ddramRead (ddramWrite m a v) b = if a = b then v else ddramRead m b := by
  have hab : a.toNat = b.toNat ↔ a = b := BitVec.toNat_inj
  unfold ddramWrite ddramRead
  by_cases hb : a = b
  · subst hb
    rw [if_pos rfl]
    split_ifs with h
    · simp [cellsFind_erase a.toNat a.toNat hw, ← h]
    · simp [cellsFind_insert]
  · split_ifs <;> simp [cellsFind_erase a.toNat b.toNat hw, cellsFind_insert, hab, hb]

/-- After a clear every address reads as a space (42_command_encoder.md R102). -/
theorem ddramRead_clear (a : DdAddr) : ddramRead ddramClear a = spaceByte := rfl

end Sys2Proof.Machine
end

