-- ==== Sys2Proof/Laws/Operands.lean ====
section
/-! SUPPORT. What the framing functions and the encoder are for the parameters of 00_scope.md R11: the spec's own literals. -/

namespace Sys2Proof.Machine

/-- The parts of R11 that fix a value in the expander byte. -/
theorem wiring_values {p : Wiring} (h : p.wellFormed = true) : p.dataHi = 7 ∧ p.dataLo = 4 ∧ p.blLevel = 1 := by
  simp only [Wiring.wellFormed, Bool.and_eq_true, decide_eq_true_eq] at h
  tauto

/-- The four control lines are distinct (R11). -/
theorem wiring_distinct {p : Wiring} (h : p.wellFormed = true) :
    p.rs ≠ p.rw ∧ p.rs ≠ p.en ∧ p.rs ≠ p.bl ∧ p.rw ≠ p.en ∧ p.rw ≠ p.bl ∧ p.en ≠ p.bl := by
  simp only [Wiring.wellFormed, Bool.and_eq_true, decide_eq_true_eq] at h
  tauto

/-- The parts of R11 that fix a value elsewhere. -/
theorem params_values {p : Params} (h : p.wellFormed = true) :
    p.wiring.wellFormed = true ∧ p.rows = 2 ∧ p.cols = 16 ∧ p.rowBase0 = 0x00 ∧ p.rowBase1 = 0x40 ∧ p.commands = {} := by
  simp only [Params.wellFormed, Bool.and_eq_true, decide_eq_true_eq] at h
  tauto

/-- The data bits are bits 7-4. -/
theorem dataMask_eq {p : Wiring} (h : p.wellFormed = true) : dataMask p = 0xF0 := by
  obtain ⟨h1, h2, -⟩ := wiring_values h
  rw [dataMask, h1, h2]
  decide

theorem placeData_eq {p : Wiring} (h : p.wellFormed = true) (n : Nibble) : placeData p n = n.setWidth 8 <<< 4 := by
  rw [placeData, dataMask_eq h, (wiring_values h).2.1]
  revert n
  decide

theorem dataOf_eq {p : Wiring} (h : p.wellFormed = true) (v : Byte) : dataOf p v = hiNibble v := by
  rw [dataOf, dataMask_eq h, (wiring_values h).2.1, hiNibble]
  ext i hi
  have : i = 0 ∨ i = 1 ∨ i = 2 ∨ i = 3 := by omega
  rcases this with rfl | rfl | rfl | rfl <;> simp [← BitVec.getLsbD_eq_getElem]

/-- The first nibble of a byte frame: `b & 0xF0` (R87). -/
theorem placeData_hi {p : Wiring} (h : p.wellFormed = true) (b : Byte) : placeData p (hiNibble b) = b &&& 0xF0 := by
  rw [placeData_eq h, hiNibble]
  ext i hi
  have : i = 0 ∨ i = 1 ∨ i = 2 ∨ i = 3 ∨ i = 4 ∨ i = 5 ∨ i = 6 ∨ i = 7 := by omega
  rcases this with rfl | rfl | rfl | rfl | rfl | rfl | rfl | rfl <;> simp

/-- The second nibble of a byte frame: `(b << 4) & 0xF0` (R87). -/
theorem placeData_lo {p : Wiring} (h : p.wellFormed = true) (b : Byte) :
    placeData p (loNibble b) = (b <<< 4) &&& 0xF0 := by
  rw [placeData_eq h, loNibble]
  ext i hi
  have : i = 0 ∨ i = 1 ∨ i = 2 ∨ i = 3 ∨ i = 4 ∨ i = 5 ∨ i = 6 ∨ i = 7 := by omega
  rcases this with rfl | rfl | rfl | rfl | rfl | rfl | rfl | rfl <;> simp

theorem blBits_eq {p : Wiring} (h : p.wellFormed = true) : blBits p = 1#8 <<< p.bl.val := by
  rw [blBits, (wiring_values h).2.2]
  rfl

end Sys2Proof.Machine
end

