-- ==== Sys2Proof/Laws/State.lean ====
section
/-! SUPPORT. One lemma per field per update of the state, true by `rfl`: no later proof unfolds a record update. -/

namespace Sys2Proof.Machine

/-! ### accepted -/

@[simp] theorem accepted_params (seq : List Byte) (s : State) : (accepted seq s).params = s.params := rfl
@[simp] theorem accepted_phase (seq : List Byte) (s : State) : (accepted seq s).phase = .busy := rfl
@[simp] theorem accepted_obuf (seq : List Byte) (s : State) : (accepted seq s).obuf = loadFrame seq s.obuf := rfl
@[simp] theorem accepted_nw (seq : List Byte) (s : State) : (accepted seq s).nw = BitVec.ofNat 3 seq.length := rfl
@[simp] theorem accepted_k (seq : List Byte) (s : State) : (accepted seq s).k = 0 := rfl
@[simp] theorem accepted_out (seq : List Byte) (s : State) : (accepted seq s).out = s.out := rfl
@[simp] theorem accepted_outWritten (seq : List Byte) (s : State) : (accepted seq s).outWritten = s.outWritten := rfl
@[simp] theorem accepted_status (seq : List Byte) (s : State) : (accepted seq s).status = s.status := rfl
@[simp] theorem accepted_trace (seq : List Byte) (s : State) : (accepted seq s).trace = s.trace := rfl
@[simp] theorem accepted_req (seq : List Byte) (s : State) : (accepted seq s).req = s.req := rfl
@[simp] theorem accepted_exp (seq : List Byte) (s : State) : (accepted seq s).exp = s.exp := rfl
@[simp] theorem accepted_lcd (seq : List Byte) (s : State) : (accepted seq s).lcd = s.lcd := rfl
@[simp] theorem accepted_session (seq : List Byte) (s : State) : (accepted seq s).session = s.session := rfl
@[simp] theorem accepted_todo (seq : List Byte) (s : State) : (accepted seq s).todo = s.todo := rfl
@[simp] theorem accepted_task (seq : List Byte) (s : State) : (accepted seq s).task = s.task := rfl
@[simp] theorem accepted_report (seq : List Byte) (s : State) : (accepted seq s).report = s.report := rfl
@[simp] theorem accepted_answers (seq : List Byte) (s : State) : (accepted seq s).answers = s.answers := rfl
@[simp] theorem accepted_drawn (seq : List Byte) (s : State) : (accepted seq s).drawn = s.drawn := rfl
@[simp] theorem accepted_frees (seq : List Byte) (s : State) : (accepted seq s).frees = s.frees := rfl

/-! ### endRequest -/

@[simp] theorem endRequest_params (st : BitVec 2) (s : State) : (endRequest st s).params = s.params := rfl
@[simp] theorem endRequest_phase (st : BitVec 2) (s : State) : (endRequest st s).phase = .idle := rfl
@[simp] theorem endRequest_obuf (st : BitVec 2) (s : State) : (endRequest st s).obuf = s.obuf := rfl
@[simp] theorem endRequest_nw (st : BitVec 2) (s : State) : (endRequest st s).nw = s.nw := rfl
@[simp] theorem endRequest_k (st : BitVec 2) (s : State) : (endRequest st s).k = s.k := rfl
@[simp] theorem endRequest_out (st : BitVec 2) (s : State) : (endRequest st s).out = s.out := rfl
@[simp] theorem endRequest_outWritten (st : BitVec 2) (s : State) : (endRequest st s).outWritten = s.outWritten := rfl
@[simp] theorem endRequest_status (st : BitVec 2) (s : State) : (endRequest st s).status = st := rfl
@[simp] theorem endRequest_trace (st : BitVec 2) (s : State) : (endRequest st s).trace = s.trace := rfl
@[simp] theorem endRequest_req (st : BitVec 2) (s : State) : (endRequest st s).req = s.req := rfl
@[simp] theorem endRequest_exp (st : BitVec 2) (s : State) : (endRequest st s).exp = s.exp := rfl
@[simp] theorem endRequest_lcd (st : BitVec 2) (s : State) : (endRequest st s).lcd = s.lcd := rfl
@[simp] theorem endRequest_session (st : BitVec 2) (s : State) : (endRequest st s).session = s.session := rfl
@[simp] theorem endRequest_todo (st : BitVec 2) (s : State) : (endRequest st s).todo = s.todo := rfl
@[simp] theorem endRequest_task (st : BitVec 2) (s : State) : (endRequest st s).task = s.task := rfl
@[simp] theorem endRequest_report (st : BitVec 2) (s : State) : (endRequest st s).report = s.report := rfl
@[simp] theorem endRequest_answers (st : BitVec 2) (s : State) : (endRequest st s).answers = s.answers := rfl
@[simp] theorem endRequest_drawn (st : BitVec 2) (s : State) : (endRequest st s).drawn = s.drawn := rfl
@[simp] theorem endRequest_frees (st : BitVec 2) (s : State) : (endRequest st s).frees = s.frees := rfl

/-! ### rejectRequest -/

@[simp] theorem rejectRequest_params (s : State) : (rejectRequest s).params = s.params := rfl
@[simp] theorem rejectRequest_phase (s : State) : (rejectRequest s).phase = .idle := rfl
@[simp] theorem rejectRequest_obuf (s : State) : (rejectRequest s).obuf = s.obuf := rfl
@[simp] theorem rejectRequest_nw (s : State) : (rejectRequest s).nw = s.nw := rfl
@[simp] theorem rejectRequest_k (s : State) : (rejectRequest s).k = s.k := rfl
@[simp] theorem rejectRequest_out (s : State) : (rejectRequest s).out = s.out := rfl
@[simp] theorem rejectRequest_outWritten (s : State) : (rejectRequest s).outWritten = s.outWritten := rfl
@[simp] theorem rejectRequest_status (s : State) : (rejectRequest s).status = statusIllegalRequest := rfl
@[simp] theorem rejectRequest_trace (s : State) : (rejectRequest s).trace = s.trace := rfl
@[simp] theorem rejectRequest_req (s : State) : (rejectRequest s).req = s.req := rfl
@[simp] theorem rejectRequest_exp (s : State) : (rejectRequest s).exp = s.exp := rfl
@[simp] theorem rejectRequest_lcd (s : State) : (rejectRequest s).lcd = s.lcd := rfl
@[simp] theorem rejectRequest_session (s : State) : (rejectRequest s).session = s.session := rfl
@[simp] theorem rejectRequest_todo (s : State) : (rejectRequest s).todo = s.todo := rfl
@[simp] theorem rejectRequest_task (s : State) : (rejectRequest s).task = s.task := rfl
@[simp] theorem rejectRequest_report (s : State) : (rejectRequest s).report = s.report := rfl
@[simp] theorem rejectRequest_answers (s : State) : (rejectRequest s).answers = s.answers := rfl
@[simp] theorem rejectRequest_drawn (s : State) : (rejectRequest s).drawn = s.drawn := rfl
@[simp] theorem rejectRequest_frees (s : State) : (rejectRequest s).frees = s.frees := rfl

/-! ### anyController -/

@[simp] theorem anyController_params (s : State) : (anyController s).params = s.params := rfl
@[simp] theorem anyController_phase (s : State) : (anyController s).phase = s.phase := rfl
@[simp] theorem anyController_obuf (s : State) : (anyController s).obuf = s.obuf := rfl
@[simp] theorem anyController_nw (s : State) : (anyController s).nw = s.nw := rfl
@[simp] theorem anyController_k (s : State) : (anyController s).k = s.k := rfl
@[simp] theorem anyController_out (s : State) : (anyController s).out = s.out := rfl
@[simp] theorem anyController_outWritten (s : State) : (anyController s).outWritten = s.outWritten := rfl
@[simp] theorem anyController_status (s : State) : (anyController s).status = s.status := rfl
@[simp] theorem anyController_trace (s : State) : (anyController s).trace = s.trace := rfl
@[simp] theorem anyController_req (s : State) : (anyController s).req = s.req := rfl
@[simp] theorem anyController_exp (s : State) : (anyController s).exp = s.exp := rfl
@[simp] theorem anyController_session (s : State) : (anyController s).session = s.session := rfl
@[simp] theorem anyController_todo (s : State) : (anyController s).todo = s.todo := rfl
@[simp] theorem anyController_task (s : State) : (anyController s).task = s.task := rfl
@[simp] theorem anyController_report (s : State) : (anyController s).report = s.report := rfl
@[simp] theorem anyController_answers (s : State) : (anyController s).answers = s.answers := rfl
@[simp] theorem anyController_drawn (s : State) : (anyController s).drawn = s.drawn := rfl
@[simp] theorem anyController_frees (s : State) : (anyController s).frees = s.frees + 1 := rfl

/-! ### setRegs -/

@[simp] theorem setRegs_params (r : LcdRegs) (s : State) : (setRegs r s).params = s.params := rfl
@[simp] theorem setRegs_phase (r : LcdRegs) (s : State) : (setRegs r s).phase = s.phase := rfl
@[simp] theorem setRegs_obuf (r : LcdRegs) (s : State) : (setRegs r s).obuf = s.obuf := rfl
@[simp] theorem setRegs_nw (r : LcdRegs) (s : State) : (setRegs r s).nw = s.nw := rfl
@[simp] theorem setRegs_k (r : LcdRegs) (s : State) : (setRegs r s).k = s.k := rfl
@[simp] theorem setRegs_out (r : LcdRegs) (s : State) : (setRegs r s).out = s.out := rfl
@[simp] theorem setRegs_outWritten (r : LcdRegs) (s : State) : (setRegs r s).outWritten = s.outWritten := rfl
@[simp] theorem setRegs_status (r : LcdRegs) (s : State) : (setRegs r s).status = s.status := rfl
@[simp] theorem setRegs_trace (r : LcdRegs) (s : State) : (setRegs r s).trace = s.trace := rfl
@[simp] theorem setRegs_req (r : LcdRegs) (s : State) : (setRegs r s).req = s.req := rfl
@[simp] theorem setRegs_exp (r : LcdRegs) (s : State) : (setRegs r s).exp = s.exp := rfl
@[simp] theorem setRegs_lcd (r : LcdRegs) (s : State) : (setRegs r s).lcd = { s.lcd with regs := r } := rfl
@[simp] theorem setRegs_session (r : LcdRegs) (s : State) : (setRegs r s).session = s.session := rfl
@[simp] theorem setRegs_todo (r : LcdRegs) (s : State) : (setRegs r s).todo = s.todo := rfl
@[simp] theorem setRegs_task (r : LcdRegs) (s : State) : (setRegs r s).task = s.task := rfl
@[simp] theorem setRegs_report (r : LcdRegs) (s : State) : (setRegs r s).report = s.report := rfl
@[simp] theorem setRegs_answers (r : LcdRegs) (s : State) : (setRegs r s).answers = s.answers := rfl
@[simp] theorem setRegs_drawn (r : LcdRegs) (s : State) : (setRegs r s).drawn = s.drawn := rfl
@[simp] theorem setRegs_frees (r : LcdRegs) (s : State) : (setRegs r s).frees = s.frees := rfl

/-! ### setDdram -/

@[simp] theorem setDdram_params (m : Ddram) (s : State) : (setDdram m s).params = s.params := rfl
@[simp] theorem setDdram_phase (m : Ddram) (s : State) : (setDdram m s).phase = s.phase := rfl
@[simp] theorem setDdram_obuf (m : Ddram) (s : State) : (setDdram m s).obuf = s.obuf := rfl
@[simp] theorem setDdram_nw (m : Ddram) (s : State) : (setDdram m s).nw = s.nw := rfl
@[simp] theorem setDdram_k (m : Ddram) (s : State) : (setDdram m s).k = s.k := rfl
@[simp] theorem setDdram_out (m : Ddram) (s : State) : (setDdram m s).out = s.out := rfl
@[simp] theorem setDdram_outWritten (m : Ddram) (s : State) : (setDdram m s).outWritten = s.outWritten := rfl
@[simp] theorem setDdram_status (m : Ddram) (s : State) : (setDdram m s).status = s.status := rfl
@[simp] theorem setDdram_trace (m : Ddram) (s : State) : (setDdram m s).trace = s.trace := rfl
@[simp] theorem setDdram_req (m : Ddram) (s : State) : (setDdram m s).req = s.req := rfl
@[simp] theorem setDdram_exp (m : Ddram) (s : State) : (setDdram m s).exp = s.exp := rfl
@[simp] theorem setDdram_lcd (m : Ddram) (s : State) : (setDdram m s).lcd = { s.lcd with ddram := m } := rfl
@[simp] theorem setDdram_session (m : Ddram) (s : State) : (setDdram m s).session = s.session := rfl
@[simp] theorem setDdram_todo (m : Ddram) (s : State) : (setDdram m s).todo = s.todo := rfl
@[simp] theorem setDdram_task (m : Ddram) (s : State) : (setDdram m s).task = s.task := rfl
@[simp] theorem setDdram_report (m : Ddram) (s : State) : (setDdram m s).report = s.report := rfl
@[simp] theorem setDdram_answers (m : Ddram) (s : State) : (setDdram m s).answers = s.answers := rfl
@[simp] theorem setDdram_drawn (m : Ddram) (s : State) : (setDdram m s).drawn = s.drawn := rfl
@[simp] theorem setDdram_frees (m : Ddram) (s : State) : (setDdram m s).frees = s.frees := rfl

/-! ### setMode -/

@[simp] theorem setMode_params (m : Mode) (s : State) : (setMode m s).params = s.params := rfl
@[simp] theorem setMode_phase (m : Mode) (s : State) : (setMode m s).phase = s.phase := rfl
@[simp] theorem setMode_obuf (m : Mode) (s : State) : (setMode m s).obuf = s.obuf := rfl
@[simp] theorem setMode_nw (m : Mode) (s : State) : (setMode m s).nw = s.nw := rfl
@[simp] theorem setMode_k (m : Mode) (s : State) : (setMode m s).k = s.k := rfl
@[simp] theorem setMode_out (m : Mode) (s : State) : (setMode m s).out = s.out := rfl
@[simp] theorem setMode_outWritten (m : Mode) (s : State) : (setMode m s).outWritten = s.outWritten := rfl
@[simp] theorem setMode_status (m : Mode) (s : State) : (setMode m s).status = s.status := rfl
@[simp] theorem setMode_trace (m : Mode) (s : State) : (setMode m s).trace = s.trace := rfl
@[simp] theorem setMode_req (m : Mode) (s : State) : (setMode m s).req = s.req := rfl
@[simp] theorem setMode_exp (m : Mode) (s : State) : (setMode m s).exp = s.exp := rfl
@[simp] theorem setMode_lcd (m : Mode) (s : State) : (setMode m s).lcd = { s.lcd with mode := m } := rfl
@[simp] theorem setMode_session (m : Mode) (s : State) : (setMode m s).session = s.session := rfl
@[simp] theorem setMode_todo (m : Mode) (s : State) : (setMode m s).todo = s.todo := rfl
@[simp] theorem setMode_task (m : Mode) (s : State) : (setMode m s).task = s.task := rfl
@[simp] theorem setMode_report (m : Mode) (s : State) : (setMode m s).report = s.report := rfl
@[simp] theorem setMode_answers (m : Mode) (s : State) : (setMode m s).answers = s.answers := rfl
@[simp] theorem setMode_drawn (m : Mode) (s : State) : (setMode m s).drawn = s.drawn := rfl
@[simp] theorem setMode_frees (m : Mode) (s : State) : (setMode m s).frees = s.frees := rfl

/-! ### setBit8 -/

@[simp] theorem setBit8_params (s : State) : (setBit8 s).params = s.params := rfl
@[simp] theorem setBit8_phase (s : State) : (setBit8 s).phase = s.phase := rfl
@[simp] theorem setBit8_obuf (s : State) : (setBit8 s).obuf = s.obuf := rfl
@[simp] theorem setBit8_nw (s : State) : (setBit8 s).nw = s.nw := rfl
@[simp] theorem setBit8_k (s : State) : (setBit8 s).k = s.k := rfl
@[simp] theorem setBit8_out (s : State) : (setBit8 s).out = s.out := rfl
@[simp] theorem setBit8_outWritten (s : State) : (setBit8 s).outWritten = s.outWritten := rfl
@[simp] theorem setBit8_status (s : State) : (setBit8 s).status = s.status := rfl
@[simp] theorem setBit8_trace (s : State) : (setBit8 s).trace = s.trace := rfl
@[simp] theorem setBit8_req (s : State) : (setBit8 s).req = s.req := rfl
@[simp] theorem setBit8_exp (s : State) : (setBit8 s).exp = s.exp := rfl
@[simp] theorem setBit8_lcd (s : State) : (setBit8 s).lcd = { s.lcd with mode := .bit8, halfKnown := false } := rfl
@[simp] theorem setBit8_session (s : State) : (setBit8 s).session = s.session := rfl
@[simp] theorem setBit8_todo (s : State) : (setBit8 s).todo = s.todo := rfl
@[simp] theorem setBit8_task (s : State) : (setBit8 s).task = s.task := rfl
@[simp] theorem setBit8_report (s : State) : (setBit8 s).report = s.report := rfl
@[simp] theorem setBit8_answers (s : State) : (setBit8 s).answers = s.answers := rfl
@[simp] theorem setBit8_drawn (s : State) : (setBit8 s).drawn = s.drawn := rfl
@[simp] theorem setBit8_frees (s : State) : (setBit8 s).frees = s.frees := rfl

/-! ### setHalf -/

@[simp] theorem setHalf_params (h : Half) (s : State) : (setHalf h s).params = s.params := rfl
@[simp] theorem setHalf_phase (h : Half) (s : State) : (setHalf h s).phase = s.phase := rfl
@[simp] theorem setHalf_obuf (h : Half) (s : State) : (setHalf h s).obuf = s.obuf := rfl
@[simp] theorem setHalf_nw (h : Half) (s : State) : (setHalf h s).nw = s.nw := rfl
@[simp] theorem setHalf_k (h : Half) (s : State) : (setHalf h s).k = s.k := rfl
@[simp] theorem setHalf_out (h : Half) (s : State) : (setHalf h s).out = s.out := rfl
@[simp] theorem setHalf_outWritten (h : Half) (s : State) : (setHalf h s).outWritten = s.outWritten := rfl
@[simp] theorem setHalf_status (h : Half) (s : State) : (setHalf h s).status = s.status := rfl
@[simp] theorem setHalf_trace (h : Half) (s : State) : (setHalf h s).trace = s.trace := rfl
@[simp] theorem setHalf_req (h : Half) (s : State) : (setHalf h s).req = s.req := rfl
@[simp] theorem setHalf_exp (h : Half) (s : State) : (setHalf h s).exp = s.exp := rfl
@[simp] theorem setHalf_lcd (h : Half) (s : State) : (setHalf h s).lcd = { s.lcd with half := h } := rfl
@[simp] theorem setHalf_session (h : Half) (s : State) : (setHalf h s).session = s.session := rfl
@[simp] theorem setHalf_todo (h : Half) (s : State) : (setHalf h s).todo = s.todo := rfl
@[simp] theorem setHalf_task (h : Half) (s : State) : (setHalf h s).task = s.task := rfl
@[simp] theorem setHalf_report (h : Half) (s : State) : (setHalf h s).report = s.report := rfl
@[simp] theorem setHalf_answers (h : Half) (s : State) : (setHalf h s).answers = s.answers := rfl
@[simp] theorem setHalf_drawn (h : Half) (s : State) : (setHalf h s).drawn = s.drawn := rfl
@[simp] theorem setHalf_frees (h : Half) (s : State) : (setHalf h s).frees = s.frees := rfl

/-! ### receive -/

@[simp] theorem receive_params (e : Received) (s : State) : (receive e s).params = s.params := rfl
@[simp] theorem receive_phase (e : Received) (s : State) : (receive e s).phase = s.phase := rfl
@[simp] theorem receive_obuf (e : Received) (s : State) : (receive e s).obuf = s.obuf := rfl
@[simp] theorem receive_nw (e : Received) (s : State) : (receive e s).nw = s.nw := rfl
@[simp] theorem receive_k (e : Received) (s : State) : (receive e s).k = s.k := rfl
@[simp] theorem receive_out (e : Received) (s : State) : (receive e s).out = s.out := rfl
@[simp] theorem receive_outWritten (e : Received) (s : State) : (receive e s).outWritten = s.outWritten := rfl
@[simp] theorem receive_status (e : Received) (s : State) : (receive e s).status = s.status := rfl
@[simp] theorem receive_trace (e : Received) (s : State) : (receive e s).trace = s.trace := rfl
@[simp] theorem receive_req (e : Received) (s : State) : (receive e s).req = s.req := rfl
@[simp] theorem receive_exp (e : Received) (s : State) : (receive e s).exp = s.exp := rfl
@[simp] theorem receive_lcd (e : Received) (s : State) : (receive e s).lcd = { s.lcd with received := s.lcd.received ++ [e] } := rfl
@[simp] theorem receive_session (e : Received) (s : State) : (receive e s).session = s.session := rfl
@[simp] theorem receive_todo (e : Received) (s : State) : (receive e s).todo = s.todo := rfl
@[simp] theorem receive_task (e : Received) (s : State) : (receive e s).task = s.task := rfl
@[simp] theorem receive_report (e : Received) (s : State) : (receive e s).report = s.report := rfl
@[simp] theorem receive_answers (e : Received) (s : State) : (receive e s).answers = s.answers := rfl
@[simp] theorem receive_drawn (e : Received) (s : State) : (receive e s).drawn = s.drawn := rfl
@[simp] theorem receive_frees (e : Received) (s : State) : (receive e s).frees = s.frees := rfl

/-! ### spoil -/

@[simp] theorem spoil_params (s : State) : (spoil s).params = s.params := rfl
@[simp] theorem spoil_phase (s : State) : (spoil s).phase = s.phase := rfl
@[simp] theorem spoil_obuf (s : State) : (spoil s).obuf = s.obuf := rfl
@[simp] theorem spoil_nw (s : State) : (spoil s).nw = s.nw := rfl
@[simp] theorem spoil_k (s : State) : (spoil s).k = s.k := rfl
@[simp] theorem spoil_out (s : State) : (spoil s).out = s.out := rfl
@[simp] theorem spoil_outWritten (s : State) : (spoil s).outWritten = s.outWritten := rfl
@[simp] theorem spoil_status (s : State) : (spoil s).status = s.status := rfl
@[simp] theorem spoil_trace (s : State) : (spoil s).trace = s.trace := rfl
@[simp] theorem spoil_req (s : State) : (spoil s).req = s.req := rfl
@[simp] theorem spoil_exp (s : State) : (spoil s).exp = s.exp := rfl
@[simp] theorem spoil_lcd (s : State) : (spoil s).lcd = { s.lcd with halfKnown := false, stage := .start } := rfl
@[simp] theorem spoil_session (s : State) : (spoil s).session = s.session := rfl
@[simp] theorem spoil_todo (s : State) : (spoil s).todo = s.todo := rfl
@[simp] theorem spoil_task (s : State) : (spoil s).task = s.task := rfl
@[simp] theorem spoil_report (s : State) : (spoil s).report = s.report := rfl
@[simp] theorem spoil_answers (s : State) : (spoil s).answers = s.answers := rfl
@[simp] theorem spoil_drawn (s : State) : (spoil s).drawn = s.drawn := rfl
@[simp] theorem spoil_frees (s : State) : (spoil s).frees = s.frees := rfl

/-! ### present -/

@[simp] theorem present_params (d : Draw) (v : Byte) (s : State) : (present d v s).params = s.params := rfl
@[simp] theorem present_phase (d : Draw) (v : Byte) (s : State) : (present d v s).phase = s.phase := rfl
@[simp] theorem present_obuf (d : Draw) (v : Byte) (s : State) : (present d v s).obuf = s.obuf := rfl
@[simp] theorem present_nw (d : Draw) (v : Byte) (s : State) : (present d v s).nw = s.nw := rfl
@[simp] theorem present_k (d : Draw) (v : Byte) (s : State) : (present d v s).k = s.k := rfl
@[simp] theorem present_out (d : Draw) (v : Byte) (s : State) : (present d v s).out = v := rfl
@[simp] theorem present_outWritten (d : Draw) (v : Byte) (s : State) : (present d v s).outWritten = true := rfl
@[simp] theorem present_status (d : Draw) (v : Byte) (s : State) : (present d v s).status = s.status := rfl
@[simp] theorem present_trace (d : Draw) (v : Byte) (s : State) : (present d v s).trace = s.trace ++ [{ addr := s.params.devAddr, byte := v, result := d.result }] := rfl
@[simp] theorem present_req (d : Draw) (v : Byte) (s : State) : (present d v s).req = s.req := rfl
@[simp] theorem present_exp (d : Draw) (v : Byte) (s : State) : (present d v s).exp = s.exp := rfl
@[simp] theorem present_lcd (d : Draw) (v : Byte) (s : State) : (present d v s).lcd = s.lcd := rfl
@[simp] theorem present_session (d : Draw) (v : Byte) (s : State) : (present d v s).session = s.session := rfl
@[simp] theorem present_todo (d : Draw) (v : Byte) (s : State) : (present d v s).todo = s.todo := rfl
@[simp] theorem present_task (d : Draw) (v : Byte) (s : State) : (present d v s).task = s.task := rfl
@[simp] theorem present_report (d : Draw) (v : Byte) (s : State) : (present d v s).report = s.report := rfl
@[simp] theorem present_answers (d : Draw) (v : Byte) (s : State) : (present d v s).answers = s.answers := rfl
@[simp] theorem present_drawn (d : Draw) (v : Byte) (s : State) : (present d v s).drawn = s.drawn := rfl
@[simp] theorem present_frees (d : Draw) (v : Byte) (s : State) : (present d v s).frees = s.frees := rfl

/-! ### takeRx -/

@[simp] theorem takeRx_params (s : State) : (s.takeRx).params = s.params := rfl
@[simp] theorem takeRx_phase (s : State) : (s.takeRx).phase = s.phase := rfl
@[simp] theorem takeRx_obuf (s : State) : (s.takeRx).obuf = s.obuf := rfl
@[simp] theorem takeRx_nw (s : State) : (s.takeRx).nw = s.nw := rfl
@[simp] theorem takeRx_k (s : State) : (s.takeRx).k = s.k := rfl
@[simp] theorem takeRx_out (s : State) : (s.takeRx).out = s.out := rfl
@[simp] theorem takeRx_outWritten (s : State) : (s.takeRx).outWritten = s.outWritten := rfl
@[simp] theorem takeRx_status (s : State) : (s.takeRx).status = s.status := rfl
@[simp] theorem takeRx_trace (s : State) : (s.takeRx).trace = s.trace := rfl
@[simp] theorem takeRx_req (s : State) : (s.takeRx).req = s.req := rfl
@[simp] theorem takeRx_exp (s : State) : (s.takeRx).exp = s.exp := rfl
@[simp] theorem takeRx_lcd (s : State) : (s.takeRx).lcd = { s.lcd with rx := none } := rfl
@[simp] theorem takeRx_session (s : State) : (s.takeRx).session = s.session := rfl
@[simp] theorem takeRx_todo (s : State) : (s.takeRx).todo = s.todo := rfl
@[simp] theorem takeRx_task (s : State) : (s.takeRx).task = s.task := rfl
@[simp] theorem takeRx_report (s : State) : (s.takeRx).report = s.report := rfl
@[simp] theorem takeRx_answers (s : State) : (s.takeRx).answers = s.answers := rfl
@[simp] theorem takeRx_drawn (s : State) : (s.takeRx).drawn = s.drawn := rfl
@[simp] theorem takeRx_frees (s : State) : (s.takeRx).frees = s.frees := rfl

/-! ### takeReq -/

@[simp] theorem takeReq_params (s : State) : (s.takeReq).params = s.params := rfl
@[simp] theorem takeReq_phase (s : State) : (s.takeReq).phase = s.phase := rfl
@[simp] theorem takeReq_obuf (s : State) : (s.takeReq).obuf = s.obuf := rfl
@[simp] theorem takeReq_nw (s : State) : (s.takeReq).nw = s.nw := rfl
@[simp] theorem takeReq_k (s : State) : (s.takeReq).k = s.k := rfl
@[simp] theorem takeReq_out (s : State) : (s.takeReq).out = s.out := rfl
@[simp] theorem takeReq_outWritten (s : State) : (s.takeReq).outWritten = s.outWritten := rfl
@[simp] theorem takeReq_status (s : State) : (s.takeReq).status = s.status := rfl
@[simp] theorem takeReq_trace (s : State) : (s.takeReq).trace = s.trace := rfl
@[simp] theorem takeReq_req (s : State) : (s.takeReq).req = none := rfl
@[simp] theorem takeReq_exp (s : State) : (s.takeReq).exp = s.exp := rfl
@[simp] theorem takeReq_lcd (s : State) : (s.takeReq).lcd = s.lcd := rfl
@[simp] theorem takeReq_session (s : State) : (s.takeReq).session = s.session := rfl
@[simp] theorem takeReq_todo (s : State) : (s.takeReq).todo = s.todo := rfl
@[simp] theorem takeReq_task (s : State) : (s.takeReq).task = s.task := rfl
@[simp] theorem takeReq_report (s : State) : (s.takeReq).report = s.report := rfl
@[simp] theorem takeReq_answers (s : State) : (s.takeReq).answers = s.answers := rfl
@[simp] theorem takeReq_drawn (s : State) : (s.takeReq).drawn = s.drawn := rfl
@[simp] theorem takeReq_frees (s : State) : (s.takeReq).frees = s.frees := rfl

/-! ### The controller's fields after anyController -/

@[simp] theorem anyController_lcd_mode (s : State) : (anyController s).lcd.mode = .unknown := rfl
@[simp] theorem anyController_lcd_half (s : State) : (anyController s).lcd.half = s.lcd.half := rfl
@[simp] theorem anyController_lcd_halfKnown (s : State) : (anyController s).lcd.halfKnown = false := rfl
@[simp] theorem anyController_lcd_stage (s : State) : (anyController s).lcd.stage = s.lcd.stage := rfl
@[simp] theorem anyController_lcd_rx (s : State) : (anyController s).lcd.rx = s.lcd.rx := rfl
@[simp] theorem anyController_lcd_regs (s : State) : (anyController s).lcd.regs = Config.anyRegs s.frees := rfl
@[simp] theorem anyController_lcd_ddram (s : State) : (anyController s).lcd.ddram = { fill := .free s.frees, cells := [] } := rfl
@[simp] theorem anyController_lcd_received (s : State) : (anyController s).lcd.received = s.lcd.received := rfl

/-! ### The transport's answers -/

@[simp] theorem takeAnswer_params (s : State) : (takeAnswer s).params = s.params := by
  unfold takeAnswer
  split <;> rfl

@[simp] theorem takeAnswer_phase (s : State) : (takeAnswer s).phase = s.phase := by
  unfold takeAnswer
  split <;> rfl

@[simp] theorem takeAnswer_obuf (s : State) : (takeAnswer s).obuf = s.obuf := by
  unfold takeAnswer
  split <;> rfl

@[simp] theorem takeAnswer_nw (s : State) : (takeAnswer s).nw = s.nw := by
  unfold takeAnswer
  split <;> rfl

@[simp] theorem takeAnswer_k (s : State) : (takeAnswer s).k = s.k := by
  unfold takeAnswer
  split <;> rfl

@[simp] theorem takeAnswer_out (s : State) : (takeAnswer s).out = s.out := by
  unfold takeAnswer
  split <;> rfl

@[simp] theorem takeAnswer_outWritten (s : State) : (takeAnswer s).outWritten = s.outWritten := by
  unfold takeAnswer
  split <;> rfl

@[simp] theorem takeAnswer_status (s : State) : (takeAnswer s).status = s.status := by
  unfold takeAnswer
  split <;> rfl

@[simp] theorem takeAnswer_trace (s : State) : (takeAnswer s).trace = s.trace := by
  unfold takeAnswer
  split <;> rfl

@[simp] theorem takeAnswer_req (s : State) : (takeAnswer s).req = s.req := by
  unfold takeAnswer
  split <;> rfl

@[simp] theorem takeAnswer_exp (s : State) : (takeAnswer s).exp = s.exp := by
  unfold takeAnswer
  split <;> rfl

@[simp] theorem takeAnswer_lcd (s : State) : (takeAnswer s).lcd = s.lcd := by
  unfold takeAnswer
  split <;> rfl

@[simp] theorem takeAnswer_session (s : State) : (takeAnswer s).session = s.session := by
  unfold takeAnswer
  split <;> rfl

@[simp] theorem takeAnswer_todo (s : State) : (takeAnswer s).todo = s.todo := by
  unfold takeAnswer
  split <;> rfl

@[simp] theorem takeAnswer_task (s : State) : (takeAnswer s).task = s.task := by
  unfold takeAnswer
  split <;> rfl

@[simp] theorem takeAnswer_report (s : State) : (takeAnswer s).report = s.report := by
  unfold takeAnswer
  split <;> rfl

@[simp] theorem takeAnswer_frees (s : State) : (takeAnswer s).frees = s.frees := by
  unfold takeAnswer
  split <;> rfl

/-- The next answer is the one at position 0. -/
theorem nextAnswer_eq (s : State) : nextAnswer s = answerAt s 0 := by
  unfold nextAnswer answerAt
  split <;> simp_all

/-- Taking an answer moves every later one up. -/
theorem answerAt_takeAnswer (s : State) (n : Nat) : answerAt (takeAnswer s) n = answerAt s (n + 1) := by
  unfold answerAt takeAnswer
  cases h : s.answers with
  | nil => simp; congr 1; omega
  | cons d ds => simp

/-- Answers depend on the two fields that hold them alone. -/
theorem answerAt_congr {s t : State} (ha : t.answers = s.answers) (hd : t.drawn = s.drawn) : answerAt t = answerAt s := by
  funext n
  simp [answerAt, ha, hd]

end Sys2Proof.Machine
end

