-- ==== Sys2Proof/Laws/Ops.lean ====
section
/-! SUPPORT. One lemma per shared operation that says what it can do; proofs about instructions and steps cite these. -/

namespace Sys2Proof.Machine

/-! ### Operations of the controller -/

theorem OnlyController.refl (s : State) : OnlyController s s := rfl

theorem OnlyController.trans {s t u : State} (h : OnlyController s t) (h' : OnlyController t u) : OnlyController s u := by
  unfold OnlyController at *
  rw [h'.trans (congrArg (fun x : State => { x with lcd := u.lcd, frees := u.frees }) h)]

theorem anyController_only (s : State) : OnlyController s (anyController s) := rfl

theorem setRegs_only (r : LcdRegs) (s : State) : OnlyController s (setRegs r s) := rfl

theorem setDdram_only (m : Ddram) (s : State) : OnlyController s (setDdram m s) := rfl

theorem moveCursor_only (right : Bool) (s : State) : OnlyController s (moveCursor right s) := by
  unfold moveCursor
  split <;> rfl

/-- A cursor move leaves DDRAM and everything but the address counter as it was. -/
theorem moveCursor_lcd (right : Bool) (s : State) :
    (moveCursor right s).lcd = { s.lcd with regs := { s.lcd.regs with ac := (moveCursor right s).lcd.regs.ac } } := by
  unfold moveCursor
  split <;> rfl

/-- The cursor goes to the address beside it (20_memory.md R50). -/
theorem moveCursor_beside {right : Bool} {s : State} {a : DdAddr} (hd : s.lcd.regs.acDdram = 1)
    (h : addrBeside right s.lcd.regs.ac = some a) : moveCursor right s = setRegs { s.lcd.regs with ac := a } s := by
  unfold moveCursor
  rw [if_pos hd, h]

theorem takeData_only (b : Byte) (s : State) : OnlyController s (takeData b s) := by
  unfold takeData
  split
  · have h := (setDdram_only (ddramWrite s.lcd.ddram s.lcd.regs.ac b) s).trans (moveCursor_only (s.lcd.regs.entryId = 1) _)
    simp only
    split
    · exact h.trans rfl
    · exact h
  · rfl

/-- A data byte taken into DDRAM changes nothing of the controller but DDRAM and the registers. -/
theorem takeData_lcd {b : Byte} {s : State} (h : s.lcd.regs.acDdram = 1) :
    (takeData b s).lcd =
      { s.lcd with ddram := ddramWrite s.lcd.ddram s.lcd.regs.ac b, regs := (takeData b s).lcd.regs } := by
  unfold takeData
  rw [if_pos h]
  simp only
  split
  · simp only [shiftSomehow, setRegs]
    rw [moveCursor_lcd]
    rfl
  · rw [moveCursor_lcd]
    rfl

theorem deliver_only (n0 : Nibble) (rs0 : Bit) (n : Nibble) (rs : Bit) (s : State) :
    OnlyController s (deliver n0 rs0 n rs s) := by
  unfold deliver
  split <;> rfl

theorem latch_only (n : Nibble) (rs : Bit) (s : State) : OnlyController s (latch n rs s) := by
  unfold latch
  simp only
  split
  · split
    · rfl
    · exact OnlyController.trans (t := setHalf (halfAfter s.lcd.half n rs) s) rfl (deliver_only _ _ _ _ _)
  · rfl

/-- A byte that reaches the expander changes `EXP`, and otherwise the controller alone (10_state.md R28). -/
theorem drive_eq (d : Draw) (v : Byte) (s : State) :
    drive d v s = { s with exp := v, lcd := (drive d v s).lcd, frees := (drive d v s).frees } := by
  unfold drive
  simp only
  split
  · exact latch_only _ _ _
  · rfl

theorem completeNibble_only (n : Nibble) (s : State) : OnlyController s (completeNibble n s) := by
  unfold completeNibble
  split <;> rfl

theorem completeFrame_only (v : Byte) (s : State) : OnlyController s (completeFrame v s) := by
  unfold completeFrame
  split
  · exact completeNibble_only _ _
  · rfl

/-! ### DDRAM stays in canonical form -/

theorem moveCursor_ddram (right : Bool) (s : State) : (moveCursor right s).lcd.ddram = s.lcd.ddram := by
  rw [moveCursor_lcd]

theorem takeData_ddramWf {b : Byte} {s : State} (h : ddramWf s.lcd.ddram = true) :
    ddramWf (takeData b s).lcd.ddram = true := by
  have hm (r : Bool) : ddramWf (moveCursor r (setDdram (ddramWrite s.lcd.ddram s.lcd.regs.ac b) s)).lcd.ddram = true := by
    rw [moveCursor_ddram]
    exact ddramWrite_wf _ _ h
  unfold takeData
  split
  · simp only
    split
    · exact hm _
    · exact hm _
  · rfl

theorem deliver_ddramWf {n0 n : Nibble} {rs0 rs : Bit} {s : State} (h : ddramWf s.lcd.ddram = true) :
    ddramWf (deliver n0 rs0 n rs s).lcd.ddram = true := by
  unfold deliver
  split
  · exact h
  · rfl

theorem latch_ddramWf {n : Nibble} {rs : Bit} {s : State} (h : ddramWf s.lcd.ddram = true) :
    ddramWf (latch n rs s).lcd.ddram = true := by
  unfold latch
  simp only
  split
  · split
    · exact h
    · exact deliver_ddramWf (s := setHalf (halfAfter s.lcd.half n rs) s) h
  · rfl

theorem drive_ddramWf {d : Draw} {v : Byte} {s : State} (h : ddramWf s.lcd.ddram = true) :
    ddramWf (drive d v s).lcd.ddram = true := by
  unfold drive
  simp only
  split
  · exact latch_ddramWf (s := { s with exp := v }) h
  · exact h

theorem completeFrame_ddram (v : Byte) (s : State) : (completeFrame v s).lcd.ddram = s.lcd.ddram := by
  unfold completeFrame completeNibble
  split
  · split <;> rfl
  · rfl

/-! ### One bus write -/

/-- A write is recorded in `OUT` and `TRACE`, and otherwise changes `EXP` and the controller alone. -/
theorem transmit_eq (d : Draw) (v : Byte) (s : State) :
    transmit d v s =
      { s with
        out := v
        outWritten := true
        trace := s.trace ++ [{ addr := s.params.devAddr, byte := v, result := d.result }]
        exp := if reaches d then v else s.exp
        lcd := (transmit d v s).lcd
        frees := (transmit d v s).frees } := by
  unfold transmit
  split
  · rw [drive_eq d v (present d v s)]; rfl
  · rfl

theorem transmit_ddramWf {d : Draw} {v : Byte} {s : State} (h : ddramWf s.lcd.ddram = true) :
    ddramWf (transmit d v s).lcd.ddram = true := by
  unfold transmit
  split
  · exact drive_ddramWf (s := present d v s) h
  · exact h

/-- Everything one write does to the state but to the controller (41_framer.md R82, 10_state.md R22, R28). -/
theorem emitWith_eq (d : Draw) (v : Byte) (s : State) :
    emitWith d v s =
      { s with
        out := v
        outWritten := true
        trace := s.trace ++ [{ addr := s.params.devAddr, byte := v, result := d.result }]
        exp := if reaches d then v else s.exp
        k := if d.result = .ok then s.k + 1 else s.k
        status :=
          if d.result = .fail then statusTransportFailure else if s.k + 1 = s.nw then statusOk else s.status
        phase := if d.result = .fail ∨ s.k + 1 = s.nw then .idle else s.phase
        lcd := (emitWith d v s).lcd
        frees := (emitWith d v s).frees } := by
  unfold emitWith
  rw [transmit_eq]
  cases hr : d.result with
  | fail => simp [endRequest, spoil]
  | ok =>
    by_cases h : s.k + 1 = s.nw
    · simp only [h, if_true]
      rw [endRequest, completeFrame_only v _]
      simp
    · have h' : ¬ s.k + 1#3 = s.nw := h
      simp [h']

theorem spoil_ddram (s : State) : (spoil s).lcd.ddram = s.lcd.ddram := rfl

theorem emitWith_ddramWf {d : Draw} {v : Byte} {s : State} (h : ddramWf s.lcd.ddram = true) :
    ddramWf (emitWith d v s).lcd.ddram = true := by
  have ht := transmit_ddramWf (d := d) (v := v) h
  unfold emitWith
  simp only
  cases d.result with
  | fail => exact ht
  | ok =>
    simp only
    split
    · rw [endRequest_lcd, completeFrame_ddram]; exact ht
    · exact ht

/-- The emission step either writes one byte or, with `K` out of range, faults. -/
theorem emit_cases {s t : State} (h : emit s = .next t) :
    ∃ v, nextByte s = some v ∧ t = emitWith (nextAnswer s) v (takeAnswer s) := by
  unfold emit at h
  split at h
  next v hv => exact ⟨v, hv, (Host.Outcome.next.inj h).symm⟩
  next => cases h

/-! ### Requests -/

/-- A request is accepted in `IDLE` only (R81). -/
theorem acceptFrame_cases {seq : List Byte} {s t : State} (h : acceptFrame seq s = .next t) :
    s.phase = .idle ∧ t = accepted seq s := by
  unfold acceptFrame at h
  split at h
  next hp => exact ⟨hp, (Host.Outcome.next.inj h).symm⟩
  next => cases h

theorem acceptFrame_idle {seq : List Byte} {s : State} (h : s.phase = .idle) : acceptFrame seq s = .next (accepted seq s) := by
  simp [acceptFrame, h]

theorem acceptFrame_busy {seq : List Byte} {s : State} (h : s.phase = .busy) : acceptFrame seq s = .fault .overlap := by
  simp [acceptFrame, h]

/-- Every request frames a nibble or a byte (R84 to R86; 42_command_encoder.md R109). -/
theorem exec_request {i : Instr} (hi : instrFamily i = none) (s : State) :
    ∃ seq, exec i s = acceptFrame seq s ∧
      ((∃ n, seq = frameNibble s.params.wiring n) ∨ ∃ b rs, seq = frameByte s.params.wiring b rs) := by
  cases i with
  | nib n => exact ⟨_, rfl, .inl ⟨n, rfl⟩⟩
  | cmd b => exact ⟨_, rfl, .inr ⟨b, 0, rfl⟩⟩
  | data b => exact ⟨_, rfl, .inr ⟨b, 1, rfl⟩⟩
  | clear => exact ⟨_, rfl, .inr ⟨encClear s.params, 0, rfl⟩⟩
  | home => exact ⟨_, rfl, .inr ⟨encHome s.params, 0, rfl⟩⟩
  | entry id sh => exact ⟨_, rfl, .inr ⟨encEntry s.params id sh, 0, rfl⟩⟩
  | dispctl d c b => exact ⟨_, rfl, .inr ⟨encDispctl s.params d c b, 0, rfl⟩⟩
  | shift sc rl => exact ⟨_, rfl, .inr ⟨encShift s.params sc rl, 0, rfl⟩⟩
  | funcset dl nl f => exact ⟨_, rfl, .inr ⟨encFuncset s.params dl nl f, 0, rfl⟩⟩
  | setddram row col => exact ⟨_, rfl, .inr ⟨encDdram s.params (row.setWidth 8) (col.setWidth 8), 0, rfl⟩⟩
  | _ => simp [instrFamily] at hi

/-- A controller instruction changes the controller alone, and always completes (41_framer.md R90). -/
theorem exec_controller {i : Instr} (hi : instrFamily i ≠ none) (s : State) :
    ∃ t, exec i s = .next t ∧ OnlyController s t := by
  cases i with
  | hdClear => exact ⟨_, rfl, rfl⟩
  | hdHome dc => exact ⟨_, rfl, by split <;> rfl⟩
  | hdEntry id sh => exact ⟨_, rfl, rfl⟩
  | hdDispctl d c b => exact ⟨_, rfl, rfl⟩
  | hdShift sc rl dc =>
    refine ⟨_, rfl, ?_⟩
    split
    · split
      · rfl
      · exact moveCursor_only _ _
    · rfl
  | hdFuncset dl nl f dc =>
    refine ⟨_, rfl, ?_⟩
    split
    · simp only
      split <;> rfl
    · rfl
  | hdSetCgram acg => exact ⟨_, rfl, rfl⟩
  | hdSetDdram add => exact ⟨_, rfl, rfl⟩
  | _ => simp [instrFamily] at hi

/-- A controller instruction keeps DDRAM in canonical form. -/
theorem exec_controller_ddramWf {i : Instr} {s t : State} (hi : instrFamily i ≠ none) (h : exec i s = .next t)
    (hw : ddramWf s.lcd.ddram = true) : ddramWf t.lcd.ddram = true := by
  cases i with
  | hdClear => cases h; rfl
  | hdHome dc => cases h; split <;> first | exact hw | rfl
  | hdEntry id sh => cases h; exact hw
  | hdDispctl d c b => cases h; exact hw
  | hdShift sc rl dc =>
    cases h
    split
    · split
      · exact hw
      · rw [moveCursor_ddram]; exact hw
    · rfl
  | hdFuncset dl nl f dc =>
    cases h
    split
    · simp only
      split <;> exact hw
    · rfl
  | hdSetCgram acg => cases h; rfl
  | hdSetDdram add => cases h; exact hw
  | _ => simp [instrFamily] at hi

/-! ### What decodes from where -/

/-- A command byte decodes to a controller instruction. -/
theorem decodeCommand_family {b : Byte} {i : Instr} (h : decode (.command b) = .ok i) : instrFamily i ≠ none := by
  simp only [decode, decodeCommand] at h
  split_ifs at h <;> cases h <;> simp [instrFamily]

/-- A request word decodes to a request. -/
theorem decodeRequest_family {w : ReqWord} {i : Instr} (h : decode (.request w) = .ok i) : instrFamily i = none := by
  simp only [decode, decodeRequest] at h
  split_ifs at h <;> cases h <;> rfl

/-! ### The step -/

/-- The controller's step changes the controller alone, and always completes. -/
theorem controllerStep_next (d : Delivered) (s : State) : ∃ t, controllerStep d s = .next t ∧ OnlyController s t := by
  unfold controllerStep
  split
  · exact ⟨_, rfl, takeData_only _ _⟩
  · split
    next i hi => exact exec_controller (decodeCommand_family hi) s
    next => exact ⟨_, rfl, rfl⟩

theorem controllerStep_ddramWf {d : Delivered} {s t : State} (h : controllerStep d s = .next t)
    (hw : ddramWf s.lcd.ddram = true) : ddramWf t.lcd.ddram = true := by
  unfold controllerStep at h
  split at h
  · cases h; exact takeData_ddramWf hw
  · split at h
    next i hi => exact exec_controller_ddramWf (decodeCommand_family hi) h hw
    next => cases h; rfl

/-- Accepting a word: a frame is loaded, or the word is illegal and `STATUS` says so (R81, R125). -/
theorem acceptStep_cases {w : ReqWord} {s t : State} (h : acceptStep w s = .next t) :
    (∃ seq, s.phase = .idle ∧ t = accepted seq s ∧
      ((∃ n, seq = frameNibble s.params.wiring n) ∨ ∃ b rs, seq = frameByte s.params.wiring b rs)) ∨
    t = rejectRequest s := by
  unfold acceptStep at h
  split at h
  next i hi =>
    obtain ⟨seq, hs, hf⟩ := exec_request (decodeRequest_family hi) s
    rw [hs] at h
    exact .inl ⟨seq, (acceptFrame_cases h).1, (acceptFrame_cases h).2, hf⟩
  next => exact .inr (Host.Outcome.next.inj h).symm

/-- Everything a step that answers a next state can be. -/
theorem step_cases {s t : State} (h : step s = .next t) :
    (∃ d, s.lcd.rx = some d ∧ controllerStep d s.takeRx = .next t) ∨
    (s.lcd.rx = none ∧ s.phase = .busy ∧ presenting s = false ∧
      ∃ v, nextByte s = some v ∧ t = emitWith (nextAnswer s) v (takeAnswer s)) ∨
    (s.lcd.rx = none ∧ s.phase = .idle ∧ ∃ w, s.req = some w ∧ acceptStep w s.takeReq = .next t) ∨
    (s.lcd.rx = none ∧ s.phase = .idle ∧ s.req = none ∧ t = hostStep s) := by
  unfold step at h
  split at h
  next d hd => exact .inl ⟨d, hd, h⟩
  next hr =>
    split at h
    next hp =>
      split at h
      next => cases h
      next hq => exact .inr (.inl ⟨hr, hp, by simpa using hq, emit_cases h⟩)
    next hp =>
      split at h
      next w hw => exact .inr (.inr (.inl ⟨hr, hp, w, hw, h⟩))
      next hw => exact .inr (.inr (.inr ⟨hr, hp, hw, (Host.Outcome.next.inj h).symm⟩))

/-! ### The host's step -/

/-- An act of the host leaves the operations it has still to call. -/
theorem hostAct_todo (a : HostAct) (s : State) : (hostAct a s).todo = s.todo := by
  cases a with
  | probe =>
    simp only [hostAct, giveUp, endTask]
    split_ifs <;> simp
  | check r =>
    simp only [hostAct, giveUp, endTask]
    split
    · split_ifs <;> rfl
    · rfl
  | _ => rfl

/-- The host never touches the block's registers, the expander or the controller; it may put a word on the port. -/
theorem hostStep_eq (s : State) :
    hostStep s =
      { s with
        req := (hostStep s).req
        session := (hostStep s).session
        todo := (hostStep s).todo
        task := (hostStep s).task
        report := (hostStep s).report
        answers := (hostStep s).answers
        drawn := (hostStep s).drawn } := by
  unfold hostStep
  split
  next a rest _ =>
    cases a with
    | probe =>
      simp only [hostAct, giveUp, endTask, takeAnswer]
      cases s.answers <;> split_ifs <;> rfl
    | delay ms => rfl
    | call w => rfl
    | check r =>
      simp only [hostAct, giveUp, endTask]
      split
      · split_ifs <;> rfl
      · rfl
    | promote c b => rfl
    | reject => rfl
    | done => rfl
  next op rest _ _ => cases op <;> rfl
  next => rfl

end Sys2Proof.Machine
end

