-- ==== Sys2Proof/Laws/PerInstr.lean ====
section
/-! SUPPORT. The per-instruction family EncodedForm: an instruction's word is in its own row of spec/opcode_table.json, by the row's
width, mask and match; so a reserved bit is never set (30_encoding.md R60, R61, R64). -/

namespace Sys2Proof.Laws.EncodedForm

open Sys2Proof

/-- The width and the value of a word. -/
def bits : Code → Nat × Nat
  | .request w => (16, w.toNat)
  | .command b => (8, b.toNat)

/-- The width, mask and match of an instruction's row of spec/opcode_table.json. -/
def row : Instr → Nat × Nat × Nat
  | .nib _ => (16, 0xFFF0, 0x1000)
  | .cmd _ => (16, 0xFF00, 0x2000)
  | .data _ => (16, 0xFF00, 0x3000)
  | .clear => (16, 0xFFFF, 0x4000)
  | .home => (16, 0xFFFF, 0x5000)
  | .entry _ _ => (16, 0xFFFC, 0x6000)
  | .dispctl _ _ _ => (16, 0xFFF8, 0x7000)
  | .shift _ _ => (16, 0xFFF3, 0x8000)
  | .funcset _ _ _ => (16, 0xFFE3, 0x9000)
  | .setddram _ _ => (16, 0xFFB0, 0xA000)
  | .hdClear => (8, 0xFF, 0x1)
  | .hdHome _ => (8, 0xFE, 0x2)
  | .hdEntry _ _ => (8, 0xFC, 0x4)
  | .hdDispctl _ _ _ => (8, 0xF8, 0x8)
  | .hdShift _ _ _ => (8, 0xF0, 0x10)
  | .hdFuncset _ _ _ _ => (8, 0xE0, 0x20)
  | .hdSetCgram _ => (8, 0xC0, 0x40)
  | .hdSetDdram _ => (8, 0x80, 0x80)

/-- The word of `i` is in the row of `i`. -/
def Statement (i : Instr) : Prop :=
  i.wellFormed = true →
    (bits (encode i)).1 = (row i).1 ∧ (bits (encode i)).2 &&& (row i).2.1 = (row i).2.2

theorem nib (n : Nibble) : Statement (.nib n) := by
  intro _; revert n; decide

theorem cmd (b : Byte) : Statement (.cmd b) := by
  intro _; revert b; decide

theorem data (b : Byte) : Statement (.data b) := by
  intro _; revert b; decide

theorem clear : Statement .clear := by
  intro _; decide

theorem home : Statement .home := by
  intro _; decide

theorem entry (id : Bit) (s : Bit) : Statement (.entry id s) := by
  intro _; revert id s; decide

theorem dispctl (d : Bit) (c : Bit) (b : Bit) : Statement (.dispctl d c b) := by
  intro _; revert d c b; decide

theorem shift (sc : Bit) (rl : Bit) : Statement (.shift sc rl) := by
  intro _; revert sc rl; decide

theorem funcset (dl : Bit) (nl : Bit) (f : Bit) : Statement (.funcset dl nl f) := by
  intro _; revert dl nl f; decide

theorem setddram (row : Bit) (col : Nibble) : Statement (.setddram row col) := by
  intro _; revert row col; decide

theorem hdClear : Statement .hdClear := by
  intro _; decide

theorem hdHome (dc : Bit) : Statement (.hdHome dc) := by
  intro _; revert dc; decide

theorem hdEntry (id : Bit) (s : Bit) : Statement (.hdEntry id s) := by
  intro _; revert id s; decide

theorem hdDispctl (d : Bit) (c : Bit) (b : Bit) : Statement (.hdDispctl d c b) := by
  intro _; revert d c b; decide

theorem hdShift (sc : Bit) (rl : Bit) (dc : BitVec 2) : Statement (.hdShift sc rl dc) := by
  intro _; revert sc rl dc; decide

theorem hdFuncset (dl : Bit) (nl : Bit) (f : Bit) (dc : BitVec 2) : Statement (.hdFuncset dl nl f dc) := by
  intro _; revert dl nl f dc; decide

theorem hdSetCgram (acg : BitVec 6) : Statement (.hdSetCgram acg) := by
  intro _; revert acg; decide

theorem hdSetDdram (add : DdAddr) : Statement (.hdSetDdram add) := by
  intro _; revert add; decide

end Sys2Proof.Laws.EncodedForm
end

