-- ==== Sys2Proof/Laws/Run.lean ====
section
/-! SUPPORT. Runs of several steps, and the one step each agent takes when it is its turn. -/

namespace Sys2Proof.Machine

/-- A run of one step. -/
theorem run_one {s t : State} (h : step s = .next t) : Host.Core.run core 1 s = .next t := by
  have h' : core.step s = .next t := h
  simp only [Host.Core.run, h']

/-- Two runs, one after the other. -/
theorem run_trans {m n : Nat} {s t u : State} (h : Host.Core.run core m s = .next t)
    (h' : Host.Core.run core n t = .next u) : Host.Core.run core (m + n) s = .next u := by
  induction m generalizing s with
  | zero => cases h; simpa using h'
  | succ m ih =>
    rw [Nat.succ_add]
    simp only [Host.Core.run] at h ⊢
    cases hs : core.step s with
    | next s' => rw [hs] at h; exact ih h
    | fault r => rw [hs] at h; cases h
    | refused r => rw [hs] at h; cases h

/-- The words of two runs, one after the other. -/
theorem acceptedWords_trans {m n : Nat} {s t : State} (h : Host.Core.run core m s = .next t) :
    acceptedWords (m + n) s = acceptedWords m s ++ acceptedWords n t := by
  induction m generalizing s with
  | zero => cases h; simp [acceptedWords]
  | succ m ih =>
    rw [Nat.succ_add]
    simp only [Host.Core.run] at h
    simp only [acceptedWords, List.append_assoc, List.append_cancel_left_eq]
    have e : core.step s = step s := rfl
    rw [e] at h
    cases hs : step s with
    | next s' => rw [hs] at h; exact ih h
    | fault r => rw [hs] at h; cases h
    | refused r => rw [hs] at h; cases h

/-- A step of another agent, or of the busy block, accepts nothing. -/
theorem acceptedWord_none {s : State} (h : s.lcd.rx ≠ none ∨ s.phase = .busy ∨ s.req = none) : acceptedWord s = none := by
  unfold acceptedWord
  rcases h with h | h | h
  · cases hx : s.lcd.rx with
    | none => exact absurd hx h
    | some d => rfl
  · rw [h]
    cases s.lcd.rx <;> rfl
  · rw [h]
    cases s.lcd.rx <;> cases s.phase <;> rfl

/-- Whether the host presents a request is a matter of the port and of the host's own fields. -/
theorem presenting_congr {s t : State} (hr : t.req = s.req) (ht : t.task = s.task) (hd : t.todo = s.todo) :
    presenting t = presenting s := by
  unfold presenting
  rw [hr, ht, hd]

/-- The block's turn in `BUSY` (41_framer.md R82). -/
theorem step_emit {s : State} {v : Byte} (hx : s.lcd.rx = none) (hp : s.phase = .busy) (hq : presenting s = false)
    (hv : nextByte s = some v) : step s = .next (emitWith (answerAt s 0) v (takeAnswer s)) := by
  simp [step, hx, hp, hq, emit, hv, nextAnswer_eq]

/-- The host's turn, in the middle of an operation. -/
theorem step_hostAct {s : State} {a : HostAct} {more : List HostAct} (hx : s.lcd.rx = none) (hp : s.phase = .idle)
    (hr : s.req = none) (ht : s.task = a :: more) : step s = .next (hostAct a { s with task := more }) := by
  simp [step, hx, hp, hr, hostStep, ht]

theorem moveCursor_rx (up : Bool) (s : State) : (moveCursor up s).lcd.rx = s.lcd.rx := by rw [moveCursor_lcd]

theorem moveCursor_half (up : Bool) (s : State) : (moveCursor up s).lcd.half = s.lcd.half := by rw [moveCursor_lcd]

theorem moveCursor_stage (up : Bool) (s : State) : (moveCursor up s).lcd.stage = s.lcd.stage := by rw [moveCursor_lcd]

theorem moveCursor_received (up : Bool) (s : State) : (moveCursor up s).lcd.received = s.lcd.received := by
  rw [moveCursor_lcd]

theorem moveCursor_mode (up : Bool) (s : State) : (moveCursor up s).lcd.mode = s.lcd.mode := by rw [moveCursor_lcd]

theorem moveCursor_halfKnown (up : Bool) (s : State) : (moveCursor up s).lcd.halfKnown = s.lcd.halfKnown := by
  rw [moveCursor_lcd]

/-- What the controller keeps of its interface while it takes a byte: what is delivered to it, the nibble it holds, the progress of the
mandatory sequence (70 R145) and the record of what it received; and `LCD.half` stays known in `BIT4` only (10_state.md R31). -/
structure KeepsInterface (s t : State) : Prop where
  rx : t.lcd.rx = s.lcd.rx
  half : t.lcd.half = s.lcd.half
  stage : t.lcd.stage = s.lcd.stage
  received : t.lcd.received = s.lcd.received
  known : (s.lcd.halfKnown = true → s.lcd.mode = .bit4) → t.lcd.halfKnown = true → t.lcd.mode = .bit4

theorem KeepsInterface.of_open (s : State) : KeepsInterface s (anyController s) := ⟨rfl, rfl, rfl, rfl, nofun⟩

theorem KeepsInterface.of_regs (r : LcdRegs) (s : State) : KeepsInterface s (setRegs r s) := ⟨rfl, rfl, rfl, rfl, id⟩

theorem KeepsInterface.of_moveCursor (up : Bool) (s : State) : KeepsInterface s (moveCursor up s) :=
  ⟨moveCursor_rx up s, moveCursor_half up s, moveCursor_stage up s, moveCursor_received up s,
    by rw [moveCursor_mode, moveCursor_halfKnown]; exact id⟩

theorem takeData_keeps (b : Byte) (s : State) : KeepsInterface s (takeData b s) := by
  have h := KeepsInterface.of_moveCursor (s.lcd.regs.entryId = 1) (setDdram (ddramWrite s.lcd.ddram s.lcd.regs.ac b) s)
  unfold takeData
  split
  · simp only
    split
    · exact ⟨h.rx, h.half, h.stage, h.received, h.known⟩
    · exact ⟨h.rx, h.half, h.stage, h.received, h.known⟩
  · exact .of_open s

theorem exec_controller_keeps {i : Instr} {s t : State} (hi : instrFamily i ≠ none) (h : exec i s = .next t) :
    KeepsInterface s t := by
  cases i with
  | hdClear => cases h; exact ⟨rfl, rfl, rfl, rfl, id⟩
  | hdHome dc => cases h; split <;> first | exact .of_regs _ s | exact .of_open s
  | hdEntry id sh => cases h; exact .of_regs _ s
  | hdDispctl d c b => cases h; exact .of_regs _ s
  | hdShift sc rl dc =>
    cases h
    split
    · split
      · exact .of_regs _ s
      · exact .of_moveCursor _ s
    · exact .of_open s
  | hdFuncset dl nl f dc =>
    cases h
    split
    · simp only
      split
      · exact ⟨rfl, rfl, rfl, rfl, nofun⟩
      · exact ⟨rfl, rfl, rfl, rfl, fun _ _ => rfl⟩
    · exact .of_open s
  | hdSetCgram acg => cases h; exact .of_open s
  | hdSetDdram add => cases h; exact .of_regs _ s
  | _ => simp [instrFamily] at hi

/-- The controller's step keeps its interface. -/
theorem controllerStep_keeps {d : Delivered} {s t : State} (h : controllerStep d s = .next t) : KeepsInterface s t := by
  unfold controllerStep at h
  split at h
  · cases h; exact takeData_keeps d.byte s
  · split at h
    next i hi => exact exec_controller_keeps (decodeCommand_family hi) h
    next => cases h; exact .of_open s

/-- In at most one step the controller has taken what was delivered to it, and nothing else has moved. -/
theorem controller_settles (s : State) :
    ∃ n t, Host.Core.run core n s = .next t ∧ t.lcd.rx = none ∧ OnlyController s t ∧ t.lcd.stage = s.lcd.stage ∧
      (s.lcd.rx = none → t = s) := by
  cases hx : s.lcd.rx with
  | none => exact ⟨0, s, rfl, hx, rfl, rfl, fun _ => rfl⟩
  | some d =>
    obtain ⟨t, ht, ho⟩ := controllerStep_next d s.takeRx
    have hk := controllerStep_keeps ht
    refine ⟨1, t, run_one (by simpa [step, hx] using ht), by simpa using hk.rx, ?_, by simpa using hk.stage, by simp⟩
    rw [OnlyController, ho]
    rfl

end Sys2Proof.Machine
end

