-- ==== Sys2Proof/Tests/Slice0.lean ====
section
/-! SUPPORT. Tests. Every expected value comes from the file of spec/ named in the test's comment. -/

namespace Sys2Proof.Tests

open Sys2Proof Sys2Proof.Machine

/-! ### Helpers: small states -/

/-- An answer `ok`. -/
def okDraw : Draw := { result := .ok, took := true, newNibble := false, newRs := false }

/-- An answer `fail`, the byte having reached the expander or not. -/
def failDraw (took : Bool) : Draw := { result := .fail, took := took, newNibble := false, newRs := false }

/-- A configuration with the default wiring (00_scope.md R11). -/
def testParams : Params := { devAddr := 0x55, timeoutMs := 10, wiring := defaultWiring }

/-- The wiring of 95_test_vectors.md L2-8. -/
def otherWiring : Wiring := { rs := 2, rw := 1, en := 0, bl := 3 }

/-- The controller after a handshake, cleared, at cell `a`, incrementing (95_test_vectors.md P1). -/
def testLcd (a : DdAddr) : Lcd :=
  { mode := .bit4, half := .hi, halfKnown := true, stage := .start, rx := none
    regs :=
      { ac := a, acDdram := 1, entryId := 1, entryS := 0, dispD := 1, dispC := 0, dispB := 0, lines := 1, font := 0
        shift := 0 }
    ddram := { fill := .space, cells := [] }, received := [] }

/-- The idle block after a completed frame, every answer `ok`: the start state of 95_test_vectors.md L2-6. -/
def idleState : State :=
  { State.resetWith testParams with exp := 0x08, lcd := testLcd 0x45, answers := [okDraw, okDraw, okDraw, okDraw] }

/-- The block that has just accepted `CLEAR` (frame 0x0C, 0x08, 0x1C, 0x18) and has sent `n` bytes of it. -/
def busyState (n : Nat) : State :=
  { idleState with
    phase := .busy
    obuf := #v[0x0C, 0x08, 0x1C, 0x18]
    nw := 4
    k := BitVec.ofNat 3 n
    exp := if n = 1 then 0x0C else if n = 3 then 0x1C else 0x08 }

/-- The next state of an outcome. -/
def nextOf : Host.Outcome State Fault Refusal → Option State
  | .next s => some s
  | .fault _ => none
  | .refused _ => none

/-- The frame an accepted request is to send. -/
def frameOf (o : Host.Outcome State Fault Refusal) : Option (List Byte) := (nextOf o).map activeFrame

/-- The controller's registers after an outcome. -/
def regsOf (o : Host.Outcome State Fault Refusal) : Option LcdRegs := (nextOf o).map (·.lcd.regs)

/-- The instruction a request word decodes to. -/
def decoded (w : ReqWord) : Option Instr := decodeTableWord 16 w.toNat

/-! ### Well-formedness: one ill-formed term for each check -/

theorem test_wf_nib : (Asm.nib 16).wellFormed = false := by decide
theorem test_wf_cmd : (Asm.cmd 256).wellFormed = false := by decide
theorem test_wf_data : (Asm.data 256).wellFormed = false := by decide
theorem test_wf_entry : (Asm.entry 2 0).wellFormed = false ∧ (Asm.entry 0 2).wellFormed = false := by decide
theorem test_wf_dispctl :
    (Asm.dispctl 2 0 0).wellFormed = false ∧ (Asm.dispctl 0 2 0).wellFormed = false ∧
      (Asm.dispctl 0 0 2).wellFormed = false := by decide
theorem test_wf_shift : (Asm.shift 2 0).wellFormed = false ∧ (Asm.shift 0 2).wellFormed = false := by decide
theorem test_wf_funcset :
    (Asm.funcset 2 0 0).wellFormed = false ∧ (Asm.funcset 0 2 0).wellFormed = false ∧
      (Asm.funcset 0 0 2).wellFormed = false := by decide
theorem test_wf_setddram : (Asm.setddram 2 0).wellFormed = false ∧ (Asm.setddram 0 16).wellFormed = false := by decide
theorem test_wf_dispon : (Asm.dispon 2 0).wellFormed = false ∧ (Asm.dispon 0 2).wellFormed = false := by decide
theorem test_wf_char : (Asm.char 256).wellFormed = false := by decide
theorem test_wf_pos : (Asm.pos 2 0).wellFormed = false ∧ (Asm.pos 0 16).wellFormed = false := by decide
theorem test_wf_wiring :
    [(0, 0, 2, 3), (0, 1, 0, 3), (0, 1, 2, 0), (0, 1, 1, 3), (0, 1, 2, 1), (0, 1, 2, 2)].all
      (fun (a, b, c, d) => Wiring.wellFormed { rs := a, rw := b, en := c, bl := d } = false) = true := by decide
theorem test_wf_layout :
    Wiring.wellFormed { defaultWiring with dataHi := 6 } = false ∧ Wiring.wellFormed { defaultWiring with dataLo := 3 } = false ∧
      Wiring.wellFormed { defaultWiring with blLevel := 0 } = false := by decide
theorem test_wf_params :
    Params.wellFormed { testParams with wiring := { defaultWiring with rs := 1 } } = false ∧
      Params.wellFormed { testParams with rows := 4 } = false ∧ Params.wellFormed { testParams with cols := 20 } = false ∧
      Params.wellFormed { testParams with rowBase0 := 1 } = false ∧
      Params.wellFormed { testParams with rowBase1 := 0x20 } = false ∧
      Params.wellFormed { testParams with commands := { clear := 0x02 } } = false := by decide
theorem test_wf_legal : testParams.wellFormed = true ∧ (Asm.setddram 1 15).wellFormed = true := by decide

/-! ### Decoding: words written out from 30_encoding.md R60 and R64 -/

theorem test_decode_nib : decodeTableWord 16 0b0001000000001111 = some (.nib 0xF) := by decide
theorem test_decode_cmd : decodeTableWord 16 0b0010000010100101 = some (.cmd 0xA5) := by decide
theorem test_decode_data : decodeTableWord 16 0b0011000001101001 = some (.data 0x69) := by decide
theorem test_decode_clear : decodeTableWord 16 0b0100000000000000 = some .clear := by decide
theorem test_decode_home : decodeTableWord 16 0b0101000000000000 = some .home := by decide
theorem test_decode_entry : decodeTableWord 16 0b0110000000000010 = some (.entry 1 0) := by decide
theorem test_decode_dispctl : decodeTableWord 16 0b0111000000000110 = some (.dispctl 1 1 0) := by decide
theorem test_decode_shift : decodeTableWord 16 0b1000000000001000 = some (.shift 1 0) := by decide
theorem test_decode_funcset : decodeTableWord 16 0b1001000000001000 = some (.funcset 0 1 0) := by decide
theorem test_decode_setddram : decodeTableWord 16 0b1010000001000101 = some (.setddram 1 5) := by decide
theorem test_decode_hdClear : decodeTableWord 8 0b00000001 = some .hdClear := by decide
theorem test_decode_hdHome : decodeTableWord 8 0b00000011 = some (.hdHome 1) := by decide
theorem test_decode_hdEntry : decodeTableWord 8 0b00000110 = some (.hdEntry 1 0) := by decide
theorem test_decode_hdDispctl : decodeTableWord 8 0b00001110 = some (.hdDispctl 1 1 0) := by decide
theorem test_decode_hdShift : decodeTableWord 8 0b00010110 = some (.hdShift 0 1 2) := by decide
theorem test_decode_hdFuncset : decodeTableWord 8 0b00101001 = some (.hdFuncset 0 1 0 1) := by decide
theorem test_decode_hdSetCgram : decodeTableWord 8 0b01100001 = some (.hdSetCgram 0x21) := by decide
theorem test_decode_hdSetDdram : decodeTableWord 8 0b11000101 = some (.hdSetDdram 0x45) := by decide

/-- 95_test_vectors.md L2-5: illegal words. -/
theorem test_decode_illegal :
    [0x0000, 0xB000, 0xF000, 0xFFFF, 0x2100, 0x1010, 0x4001, 0x5001, 0x6004, 0x7008, 0x8001, 0x8002, 0x9038, 0x9001,
      0xA080, 0xA010, 0xA020].all (fun w => decoded w = none) = true := by decide

/-- 30_encoding.md R61: the three reasons a word is illegal; R65: 0x00 is in no family. -/
theorem test_decode_reasons :
    decode (.request 0xB000) = .error .reservedOp ∧ decode (.request 0x2100) = .error .reservedRes ∧
      decode (.request 0x1010) = .error .reservedArg ∧ decode (.command 0x00) = .error .noFamily := by decide

/-- 30_encoding.md R70, R69 and R68: worked encoding, a pseudo-instruction, an operand out of range. -/
theorem test_assemble :
    assemble (.setddram 1 5) = some 0xA045 ∧ assemble .func4bit2l = some 0x9008 ∧ assemble (.nib 16) = none := by decide

/-- 30_encoding.md R68: text with a comment, a character literal and a hexadecimal numeral. -/
theorem test_assembleLine :
    assembleLine ['P', 'O', 'S', ' ', '1', ',', ' ', '5', ' ', ';', ' ', 'c'] = some 0xA045 ∧
      assembleLine ['C', 'M', 'D', ' ', '0', 'x', '2', '8'] = some 0x2028 ∧
      assembleLine ['C', 'H', 'A', 'R', ' ', Char.ofNat 39, 'H', Char.ofNat 39] = some 0x3048 := by decide

/-- 30_encoding.md R68: a literal stands for an ASCII code, so a character that has none is no operand. -/
theorem test_literal_ascii :
    assembleLine ['D', 'A', 'T', 'A', ' ', Char.ofNat 39, Char.ofNat 0xE9, Char.ofNat 39] = none := by decide

/-! ### Requests: the frames of 95_test_vectors.md L2-1 to L2-4 -/

theorem test_nib : frameOf (exec (.nib 3) idleState) = some [0x3C, 0x38] := by decide
theorem test_cmd : frameOf (exec (.cmd 0x28) idleState) = some [0x2C, 0x28, 0x8C, 0x88] := by decide
theorem test_data : frameOf (exec (.data 0x69) idleState) = some [0x6D, 0x69, 0x9D, 0x99] := by decide
theorem test_clear : frameOf (exec .clear idleState) = some [0x0C, 0x08, 0x1C, 0x18] := by decide
theorem test_home : frameOf (exec .home idleState) = some [0x0C, 0x08, 0x2C, 0x28] := by decide
theorem test_entry : frameOf (exec (.entry 1 0) idleState) = some [0x0C, 0x08, 0x6C, 0x68] := by decide
theorem test_dispctl : frameOf (exec (.dispctl 1 1 0) idleState) = some [0x0C, 0x08, 0xEC, 0xE8] := by decide
theorem test_shift : frameOf (exec (.shift 0 1) idleState) = some [0x1C, 0x18, 0x4C, 0x48] := by decide
theorem test_funcset : frameOf (exec (.funcset 0 0 1) idleState) = some [0x2C, 0x28, 0x4C, 0x48] := by decide
theorem test_setddram : frameOf (exec (.setddram 1 15) idleState) = some [0xCC, 0xC8, 0xFC, 0xF8] := by decide

/-- 95_test_vectors.md L2-8: another wiring. -/
theorem test_other_wiring :
    frameByte otherWiring 0x01 0 = [0x09, 0x08, 0x19, 0x18] ∧ frameByte otherWiring 0x48 1 = [0x4D, 0x4C, 0x8D, 0x8C] ∧
      frameNibble otherWiring 3 = [0x39, 0x38] := by decide

/-- 42_command_encoder.md R100: the encoder masks its operands. -/
theorem test_encDdram_masks : encDdram testParams 3 0x15 = 0xC5 := by decide

/-- 60_exceptions.md R125: an illegal word sets `STATUS` to 2 and adds no write. -/
theorem test_illegal :
    (nextOf (step { idleState with req := some 0xB000 })).map (fun s => (s.status, s.phase, s.trace)) =
      some (2, .idle, []) := by decide

/-- 60_exceptions.md R126: a request while `BUSY` is `Overlap`. -/
theorem test_overlap : (match step { busyState 1 with req := some 0x4000 } with | .fault .overlap => true | _ => false) = true := by
  decide

/-! ### Emission: 95_test_vectors.md L2-6 -/

/-- The last write of `CLEAR` succeeds: the status is 0 and instruction 0x01 is delivered. -/
theorem test_emit_last :
    (nextOf (step { busyState 3 with lcd := { testLcd 0 with half := .lo 0 0 } })).map
      (fun s => (s.status, s.phase, s.exp, s.lcd.half, s.lcd.rx)) = some (0, .idle, 0x18, .hi, some ⟨0x01, 0⟩) := by decide

/-- Failing index 1, the byte having reached the expander: nibble 0x0 is latched. -/
theorem test_emit_fail_took :
    (nextOf (step { busyState 1 with answers := [failDraw true] })).map
      (fun s => (s.status, s.phase, s.exp, s.lcd.half, readHalf s)) = some (1, .idle, 0x08, .lo 0 0, none) := by decide

/-- Failing index 1, the byte not having reached it: nothing is latched and EN stays high. -/
theorem test_emit_fail_not :
    (nextOf (step { busyState 1 with answers := [failDraw false] })).map
      (fun s => (s.status, s.phase, s.exp, s.lcd.half, s.out)) = some (1, .idle, 0x0C, .hi, 0x08) := by decide

/-- 10_state.md R23: reading `OUT` faults before the first write, and gives the byte presented after it. -/
theorem test_readOut :
    readOut State.reset = .error .outUnwritten ∧ (nextOf (step (busyState 0))).map readOut = some (.ok 0x0C) := ⟨rfl, rfl⟩

/-- 70_reset_and_hazards.md R145: the last write of the sequence's `NIB 2`. -/
theorem test_handshake_last :
    (nextOf (step { busyState 1 with
        obuf := #v[0x2C, 0x28, 0, 0], nw := 2, exp := 0x2C
        lcd := { testLcd 0 with mode := .unknown, halfKnown := false, stage := .three } })).map
      (fun s => (s.lcd.mode, readHalf s)) = some (.bit4, some .hi) := by decide

/-- 95_test_vectors.md L2-7: `DATA 0x48` is delivered as data 0x48. -/
theorem test_deliver_data :
    (latch 0x8 1 { idleState with lcd := { testLcd 0 with half := .lo 0x4 1 } }).lcd.received = [.data 0x48] := by decide

/-! ### The controller's instructions, delivered and run by one step -/

/-- The state after the controller has taken the command byte `b`. -/
def took (b : Nat) : Option State := nextOf (step (idleState.withFetchWord 8 b))

/-- 42_command_encoder.md R102: the address is 0 and every cell a space. -/
theorem test_hdClear : (took 0x01).map (fun s => (s.lcd.regs.ac, ddramRead s.lcd.ddram 0x45)) = some (0, 0x20) := by decide
theorem test_hdHome : (took 0x02).map (·.lcd.regs.ac) = some 0 := by decide
/-- 30_encoding.md R64: I/D is bit 1 and S bit 0. -/
theorem test_hdEntry : (took 0x05).map (fun s => (s.lcd.regs.entryId, s.lcd.regs.entryS)) = some (0, 1) := by decide
/-- R64: D is bit 2, C bit 1, B bit 0. -/
theorem test_hdDispctl :
    (took 0x0A).map (fun s => (s.lcd.regs.dispD, s.lcd.regs.dispC, s.lcd.regs.dispB)) = some (0, 1, 0) := by decide
/-- R64: 0x10 moves the cursor left, 0x1C shifts the display right. -/
theorem test_hdShift :
    (took 0x10).map (·.lcd.regs.ac) = some 0x44 ∧ (took 0x1C).map (·.lcd.regs.shift) = some 1 := by decide
/-- 42_command_encoder.md R107: function set with DL = 1 puts the controller into 8-bit mode. -/
theorem test_hdFuncset : (took 0x34).map (fun s => (s.lcd.mode, s.lcd.regs.lines, s.lcd.regs.font)) = some (.bit8, 0, 1) := by
  decide
/-- 30_encoding.md R67: the block's side of a set-CGRAM byte is exact; the instruction completes. -/
theorem test_hdSetCgram : (took 0x40).map (fun s => (s.phase, s.exp)) = some (.idle, 0x08) := by decide
/-- 95_test_vectors.md L2-2: 0xA5 names DDRAM 0x25. -/
theorem test_hdSetDdram : (took 0xA5).map (·.lcd.regs.ac) = some 0x25 := by decide

/-- 20_memory.md R50: the counter is incremented past the end of a row too. -/
theorem test_data_row_end :
    (nextOf (step { idleState with lcd := { testLcd 0x0F with rx := some ⟨0x41, 1⟩ } })).map (·.lcd.regs.ac) = some 0x10 := by decide

/-- 95_test_vectors.md P2: data 0x41 at (1, 5) leaves the address counter at 0x46. -/
theorem test_data_byte :
    (nextOf (step { idleState with lcd := { testLcd 0x45 with rx := some ⟨0x41, 1⟩ } })).map
      (fun s => (s.lcd.regs.ac, ddramRead s.lcd.ddram 0x45, s.lcd.ddram.cells)) = some (0x46, 0x41, [(0x45, 0x41)]) := by decide

/-- 10_state.md R36: the host can run every table row from reset; `NIB 0` and set DDRAM as samples. -/
theorem test_runs_from_reset :
    (nextOf (step (State.reset.withFetchWord 16 0x1000))).map (·.phase) = some .busy ∧
      (nextOf (step (State.reset.withFetchWord 8 0x80))).map (·.lcd.regs.ac) = some 0 := by decide

/-- 42_command_encoder.md R101, 95_test_vectors.md L1-1. -/
theorem test_setPosition :
    positionCall testParams 2 0 = [.reject] ∧ positionCall testParams 0 16 = [.reject] ∧
      positionCall testParams 1 5 = [.call 0xA045, .check .transportFailure, .done] := by decide

/-- 95_test_vectors.md L1-6: `turnOff` sends 0x08 whatever the flags, and `turnOn` sends the flags. -/
theorem test_turnOff_turnOn :
    opActs testParams ⟨true, 1, 0, 0⟩ .turnOff = [.call 0x7000, .check .transportFailure, .done] ∧
      opActs testParams (sessionAfter .turnOn ⟨true, 1, 0, 0⟩) .turnOn = [.call 0x7006, .check .transportFailure, .done] := by decide

/-! ### Witnesses: states and operands that meet the hypotheses of each statement -/

/-- The invariant holds of a busy state, after an even and after an odd number of bytes. -/
theorem busyState_inv : Inv (busyState 0) ∧ Inv (busyState 1) ∧ Inv (busyState 3) := by
  refine ⟨?_, ?_, ?_⟩ <;>
    exact ⟨by decide, by decide, by decide, by decide, by decide, by decide, by decide, by decide, by decide, by decide⟩

theorem idleState_inv : Inv idleState :=
  ⟨by decide, by decide, by decide, by decide, by decide, by decide, by decide, by decide, by decide, by decide⟩

theorem busyState_duty : HostDuty (busyState 0) := ⟨fun _ => rfl, fun _ h => nomatch h⟩

theorem witness_DecodeInvertsEncode : (Instr.hdHome 1).wellFormed = true := by decide
theorem witness_EncodeInvertsDecode :
    decode (.request 0xA04F) = .ok (.setddram 1 15) ∧ decode (.command 0x03) = .ok (.hdHome 1) := by decide
theorem witness_IllegalRequestWords :
    let s := { idleState with req := some (0xA010 : ReqWord) }
    s.lcd.rx = none ∧ s.phase = .idle ∧ s.req = some 0xA010 ∧ field (0xA010 : ReqWord) 0 8 &&& 0xB0 ≠ 0 := by decide
theorem witness_AssemblerNeverMasks : assemble (.nib 15) = some 0x100F ∧ assemble (.nib 16) = none := by decide
theorem witness_EncoderBytesAreControllerInstructions : testParams.wellFormed = true := by decide
theorem witness_DdramAddressMasksItsOperands : testParams.wellFormed = true ∧ (1 : Byte) ≤ 1 ∧ (15 : Byte) ≤ 15 := by decide
theorem witness_OutReadsLastByte : Inv idleState ∧ step idleState = .next idleState := ⟨idleState_inv, rfl⟩
theorem witness_ResetMeetsInvariant :
    testParams.wellFormed = true ∧ { testParams with wiring := otherWiring }.wellFormed = true := by decide
theorem witness_StepKeepsInvariant : Inv (busyState 0) ∧ (nextOf (step (busyState 0))).isSome = true :=
  ⟨busyState_inv.1, by decide⟩
theorem witness_DutifulHostNeverStops : Inv (busyState 0) ∧ HostDuty (busyState 0) := ⟨busyState_inv.1, busyState_duty⟩
theorem witness_StepKeepsConfiguration : (nextOf (step idleState)).isSome = true := by decide
theorem witness_StepAddsAtMostOneWrite :
    (nextOf (step (busyState 2))).isSome = true ∧ (nextOf (step idleState)).isSome = true := by decide
theorem witness_OnlyHostWritesSession :
    (nextOf (step { idleState with task := [.promote 1 0] })).map (·.session) ≠ some idleState.session := by decide
theorem witness_HostStepFrame :
    (idleState.lcd.rx = none ∧ idleState.phase = .idle ∧ idleState.req = none ∧ (nextOf (step idleState)).isSome = true) ∧
      (nextOf (step { idleState with req := some 0x1003 })).map (·.phase) = some .busy := by decide
theorem witness_BlockReadsNothingBack :
    (busyState 0).lcd.rx = none ∧ (testLcd 0).rx = none ∧ (busyState 0).phase = .busy ∧
      (nextOf (step (busyState 0))).isSome = true ∧
      (nextOf (step { idleState with req := some 0x1003 })).isSome = true := by decide
theorem witness_StepRunsPresentedRequest :
    let s := { idleState with req := some (0x1003 : ReqWord) }
    s.lcd.rx = none ∧ s.phase = .idle ∧ s.req = some 0x1003 ∧ decode (.request 0x1003) = .ok (.nib 3) := by decide
theorem witness_StepRunsDeliveredInstruction :
    { testLcd 0 with rx := some ⟨0x01, 0⟩ }.rx = some ⟨0x01, 0⟩ ∧ decode (.command 0x01) = .ok .hdClear := by decide
theorem witness_TableWordRuns :
    decodeTableWord 16 0x4000 = some .clear ∧ decodeTableWord 8 0x01 = some .hdClear := by decide
theorem witness_IllegalRequestSetsStatusOnly :
    let s := { idleState with req := some (0xB000 : ReqWord) }
    s.lcd.rx = none ∧ s.phase = .idle ∧ s.req = some 0xB000 ∧ decode (.request 0xB000) = .error .reservedOp := by decide
theorem witness_RequestWhileBusyIsOverlap :
    let s := { busyState 0 with req := some (0x1003 : ReqWord) }
    s.phase = .busy ∧ s.lcd.rx = none ∧ presenting s = true ∧ instrFamily (.nib 3) = none := by decide
theorem witness_NibAccepted : idleState.params.wellFormed = true ∧ idleState.phase = .idle := by decide
theorem witness_CmdAccepted : idleState.params.wellFormed = true ∧ idleState.phase = .idle := by decide
theorem witness_DataAccepted : idleState.params.wellFormed = true ∧ idleState.phase = .idle := by decide
theorem witness_CommandRequestsAccepted : idleState.params.wellFormed = true ∧ idleState.phase = .idle := by decide
theorem witness_CommandRequestIsRawCommand :
    instrFamily (.cmd 0x28) = none ∧ encode (.cmd 0x28) = encode (.cmd 0x28) ∧
      idleState.params.wiring.wellFormed = true ∧ idleState.phase = .idle ∧
      (nextOf (exec (.cmd 0x28) idleState)).isSome = true := by decide
theorem witness_CommandRequestsSendDistinctBytes :
    idleState.phase = .idle ∧ idleState.params.wellFormed = true ∧ instrFamily .clear = none ∧
      (∀ n, Instr.clear ≠ .nib n) ∧ (∀ b, Instr.clear ≠ .cmd b) ∧ (∀ b, Instr.clear ≠ .data b) ∧
      exec .clear idleState = exec .clear idleState :=
  ⟨rfl, by decide, rfl, (fun _ h => nomatch h), (fun _ h => nomatch h), (fun _ h => nomatch h), rfl⟩
theorem witness_FramesAreWellDriven : otherWiring.wellFormed = true := by decide
theorem witness_FrameLatches : otherWiring.wellFormed = true := by decide
theorem witness_FramingFunctions : otherWiring.wellFormed = true := by decide
theorem witness_EmissionIsOneWrite :
    (busyState 3).k.toNat < 4 ∧ (busyState 3).lcd.rx = none ∧ (busyState 3).phase = .busy ∧
      presenting (busyState 3) = false ∧ (busyState 3).k < (busyState 3).nw ∧ (busyState 3).k + 1 = (busyState 3).nw ∧
      (busyState 0).k + 1 ≠ (busyState 0).nw ∧ (answerAt (busyState 3) 0).result = .ok ∧
      (answerAt { busyState 0 with answers := [failDraw true] } 0).result = .fail := by decide
theorem witness_EmissionDrivesController :
    (busyState 1).k.toNat < 4 ∧ (busyState 1).lcd.rx = none ∧ (busyState 1).phase = .busy ∧
      presenting (busyState 1) = false ∧ (busyState 1).k < (busyState 1).nw ∧
      (answerAt { busyState 1 with answers := [failDraw true] } 0).result = .fail ∧
      { busyState 1 with nw := 2 }.k + 1 = { busyState 1 with nw := 2 }.nw ∧ (busyState 3).k + 1 = (busyState 3).nw ∧
      (busyState 1).k + 1 ≠ (busyState 1).nw ∧ (answerAt (busyState 1) 0).result = .ok := by decide
theorem witness_FrameReachesController :
    idleState.params.wellFormed = true ∧ idleState.phase = .idle ∧ presenting idleState = false ∧ idleState.lcd.rx = none ∧
      idleState.lcd.mode = .bit4 ∧ idleState.lcd.half = .hi ∧ lineOf idleState.exp idleState.params.wiring.en = 0 ∧
      (∀ j : Fin 4, (answerAt idleState j).result = .ok) ∧ idleState.lcd.stage ≠ .three := by decide
theorem witness_StepIndexCountsWrites :
    (nextOf (acceptFrame [0x3C, 0x38] idleState)).isSome = true ∧ (nextOf (step (busyState 3))).isSome = true := by decide
theorem witness_ExpanderAfterWrite :
    (nextOf (step (busyState 0))).isSome = true ∧ (nextOf (step idleState)).isSome = true := by decide

/-- A busy state whose next write fails meets the invariant. -/
theorem failingState_inv : Inv { busyState 1 with answers := [failDraw false] } :=
  ⟨by decide, by decide, by decide, by decide, by decide, by decide, by decide, by decide, by decide, by decide⟩

theorem witness_FailureEndsRequest :
    let s := { busyState 1 with answers := [failDraw false] }
    Inv s ∧ s.lcd.rx = none ∧ s.phase = .busy ∧ (answerAt s 0).result = .fail ∧ (nextOf (step s)).isSome = true :=
  ⟨failingState_inv, rfl, rfl, rfl, by decide⟩
theorem witness_FailureMakesHalfUnknown :
    let s := { busyState 1 with answers := [failDraw true] }
    s.lcd.rx = none ∧ s.phase = .busy ∧ (answerAt s 0).result = .fail ∧ (nextOf (step s)).isSome = true := by decide
theorem witness_NoWriteDisturbsLatch :
    Inv (busyState 1) ∧ (busyState 1).phase = .busy ∧ nextByte (busyState 1) = some 0x08 :=
  ⟨busyState_inv.2.1, rfl, by decide⟩
theorem witness_CompletedFrameLowersEnable :
    Inv (busyState 3) ∧ (busyState 3).lcd.rx = none ∧ (busyState 3).phase = .busy ∧
      (answerAt (busyState 3) 0).result = .ok ∧ (nextOf (step (busyState 3))).map (·.phase) = some .idle :=
  ⟨busyState_inv.2.2, rfl, rfl, rfl, by decide⟩
theorem witness_RequestRunsToItsStatus :
    Inv (busyState 0) ∧ (busyState 0).phase = .busy ∧ (busyState 0).k = 0 ∧ presenting (busyState 0) = false :=
  ⟨busyState_inv.1, rfl, rfl, rfl⟩
theorem witness_WriteCounts :
    ([0x3C, 0x38] : List Byte) ≠ [] ∧ (runFrame 0 (fun _ => okDraw) [0x3C, 0x38]).1 = statusOk ∧
      (runFrame 0 (fun _ => failDraw true) [0x3C, 0x38]).1 ≠ statusOk := by decide
theorem witness_RequestWriteCounts :
    idleState.params.wellFormed = true ∧ idleState.phase = .idle ∧ presenting idleState = false ∧ idleState.lcd.rx = none ∧
      decode (.request 0xB000) = .error .reservedOp ∧ instrFamily (.nib 3) = none ∧ instrFamily .clear = none := by decide
theorem witness_LatchOnFallingEnable : defaultWiring.wellFormed = true ∧ latchOf defaultWiring okDraw 0x3C 0x48 = some (0x3, 0) := by decide
theorem witness_DriveLatchesOrHolds :
    latchOf idleState.params.wiring okDraw idleState.exp 0x0C = none ∧
      latchOf (busyState 1).params.wiring okDraw (busyState 1).exp 0x08 = some (0x0, 0) := by decide
theorem witness_NibblesPairHighFirst :
    idleState.lcd.mode = .bit4 ∧ idleState.lcd.half = .hi ∧ { testLcd 0 with half := .lo 4 1 }.half = .lo 4 1 ∧
      State.reset.lcd.mode ≠ .bit4 ∧ (1 : Bit) ≠ 0 := by decide
theorem witness_HandshakeReachesFourBit :
    let s := { idleState with task := nibbleHandshake ++ [HostAct.done], answers := List.replicate 8 okDraw ++ [okDraw] }
    s.params.wellFormed = true ∧ s.phase = .idle ∧ s.req = none ∧ s.task = nibbleHandshake ++ [HostAct.done] ∧
      s.answers = List.replicate 8 okDraw ++ [okDraw] ∧ (List.replicate 8 okDraw).length = 8 ∧
      ∀ d ∈ List.replicate 8 okDraw, d.result = .ok := by decide
theorem witness_ControllerShift :
    (testLcd 0x0F).regs.acDdram = 1 ∧ (testLcd 0x7E).regs.ac ≠ 0x7F ∧ (testLcd 0x01).regs.ac ≠ 0 := by decide
theorem witness_ControllerOutsideEncoder :
    (1 : BitVec 2) ≠ 0 ∧ decode (.command 0x11) = .ok (.hdShift 0 0 1) ∧ decode (.command 0x21) = .ok (.hdFuncset 0 0 0 1) := by
  decide
theorem witness_DataByteWrittenAtCounter :
    let s := { idleState with lcd := { testLcd 0x7E with rx := some ⟨0x41, 1⟩ } }
    s.lcd.rx = some ⟨0x41, 1⟩ ∧ s.lcd.regs.acDdram = 1 ∧ ddramWf s.lcd.ddram = true ∧ s.lcd.regs.entryId = 1 ∧
      s.lcd.regs.ac ≠ 0x7F ∧ s.lcd.regs.entryS = 0 ∧
      { (testLcd 0x01).regs with entryId := 0 }.entryId = 0 ∧ (testLcd 0x01).regs.ac ≠ 0 := by decide
theorem witness_DeliveredByteIsTaken :
    { testLcd 0 with rx := some ⟨0x00, 0⟩ }.rx = some ⟨0x00, 0⟩ ∧
      { (testLcd 0).regs with acDdram := 0 }.acDdram = 0 := by decide
theorem witness_PositionCheckedBeforeRequest :
    let s := { idleState with todo := [.setPosition 1 16] }
    s.params.wellFormed = true ∧ s.lcd.rx = none ∧ s.phase = .idle ∧ s.req = none ∧ s.task = [] ∧
      s.todo = [.setPosition 1 16] := by decide
theorem witness_CursorFlagsSurviveDisplayOff :
    let s :=
      { idleState with
        todo := [.setCursor 1 0, .turnOff, .turnOn], session := ⟨true, 0, 0, 1⟩
        answers := List.replicate 12 okDraw ++ [] }
    s.params.wellFormed = true ∧ s.phase = .idle ∧ s.req = none ∧ s.task = [] ∧ s.todo = .setCursor 1 0 :: .turnOff :: .turnOn :: [] ∧
      s.session.display = 1 ∧ s.answers = List.replicate 12 okDraw ++ [] ∧ (List.replicate 12 okDraw).length = 12 ∧
      ∀ d ∈ List.replicate 12 okDraw, d.result = .ok := by decide
theorem witness_InitFailureLeavesUninitialized :
    let s := { idleState with task := [.probe], answers := [failDraw false] }
    let t := { idleState with task := [.check .initializationFailed], status := statusTransportFailure }
    s.lcd.rx = none ∧ s.phase = .idle ∧ s.req = none ∧ s.task = [.probe] ∧ (answerAt s 0).result = .fail ∧
      t.task = [.check .initializationFailed] ∧ t.status = statusTransportFailure := by decide
theorem witness_InitSendsExactlyEightRequests :
    let s := { idleState with todo := [.init 1 0], answers := List.replicate 25 okDraw ++ [] }
    s.params.wellFormed = true ∧ s.phase = .idle ∧ s.req = none ∧ s.task = [] ∧ s.todo = [.init 1 0] ∧ s.answers = List.replicate 25 okDraw ++ [] ∧
      (List.replicate 25 okDraw).length = 25 ∧ ∀ d ∈ List.replicate 25 okDraw, d.result = .ok := by decide

theorem witness_InitFailsAtFirstFailingWrite :
    let s := { idleState with todo := [.init 1 0], answers := List.replicate 24 okDraw ++ failDraw false :: [] }
    s.params.wellFormed = true ∧ s.phase = .idle ∧ s.req = none ∧ s.task = [] ∧ s.todo = [.init 1 0] ∧
      s.answers = List.replicate 24 okDraw ++ failDraw false :: [] ∧ 1 ≤ (List.replicate 24 okDraw).length ∧
      (List.replicate 24 okDraw).length ≤ 24 ∧ (∀ d ∈ List.replicate 24 okDraw, d.result = .ok) ∧
      (failDraw false).result = .fail := by decide

end Sys2Proof.Tests
end

/-! PROOFS of the family 00_scope.md: the frame of the host's step (O17), and whole requests and display operations as runs (O57). -/

namespace Sys2Proof.Machine

/-! ### The frame of the host's step -/

/-- What a word at the port must be to make the block `BUSY`: a legal request, whose frame starts at `K` = 0 (41_framer.md R81). -/
theorem acceptStep_busy {w : ReqWord} {s t : State} (h : acceptStep w s = .next t) (ht : t.phase = .busy) :
    t.k = 0 ∧ ∃ i, decode (.request w) = .ok i ∧ instrFamily i = none ∧ exec i s = .next t := by
  unfold acceptStep at h
  split at h
  next i hi =>
    obtain ⟨seq, hs, -⟩ := exec_request (decodeRequest_family hi) s
    obtain ⟨-, rfl⟩ := acceptFrame_cases (hs ▸ h)
    exact ⟨rfl, i, hi, decodeRequest_family hi, h⟩
  next =>
    cases h
    cases ht

theorem OnlyController.phase {s t : State} (h : OnlyController s t) : t.phase = s.phase := by
  unfold OnlyController at h
  rw [h]

theorem hostStep_phase (s : State) : (hostStep s).phase = s.phase := by rw [hostStep_eq]

/-- Settles O17: the host's step is framed by `hostStep_eq`, and of the four kinds of step only the acceptance of a legal word leads
from `IDLE` to `BUSY`. -/
theorem hostStepFrame : Obligations.HostStepFrame := by
  unfold Obligations.HostStepFrame
  refine ⟨fun s t hx hp hr h => ?_, fun s t hp h ht => ?_⟩
  · have hst : t = hostStep s := by
      simpa [step, hx, hp, hr, eq_comm] using h
    rw [hst]
    exact hostStep_eq s
  · rcases step_cases h with ⟨d, -, hd⟩ | ⟨-, hb, -⟩ | ⟨hx, -, w, hw, ha⟩ | ⟨-, -, -, rfl⟩
    · obtain ⟨u, hu, ho⟩ := controllerStep_next d s.takeRx
      obtain rfl : t = u := Host.Outcome.next.inj (hd.symm.trans hu)
      simp [ho.phase, hp] at ht
    · simp [hp] at hb
    · obtain ⟨hk, i, hi, hf, he⟩ := acceptStep_busy ha ht
      exact ⟨hx, hk, w, i, hw, hi, hf, he⟩
    · simp [hostStep_phase, hp] at ht

/-! ### Runs, with the words the block accepts in them -/

/-- From `s` some number of steps lead to `t`, and the block accepts the words `ws` in them. -/
def Reaches (s : State) (ws : List ReqWord) (t : State) : Prop :=
  ∃ n, Host.Core.run core n s = .next t ∧ acceptedWords n s = ws

theorem Reaches.refl (s : State) : Reaches s [] s := ⟨0, rfl, rfl⟩

theorem Reaches.trans {s t u : State} {ws ws' : List ReqWord} (h : Reaches s ws t) (h' : Reaches t ws' u) :
    Reaches s (ws ++ ws') u := by
  obtain ⟨m, hm, rfl⟩ := h
  obtain ⟨n, hn, rfl⟩ := h'
  exact ⟨m + n, run_trans hm hn, acceptedWords_trans hm⟩

theorem Reaches.of_step {s t : State} (h : step s = .next t) : Reaches s (acceptedWord s).toList t :=
  ⟨1, run_one h, by simp [acceptedWords, h]⟩

/-- A step that accepts no word. -/
theorem Reaches.quiet {s t : State} (h : step s = .next t)
    (hq : s.lcd.rx ≠ none ∨ s.phase = .busy ∨ s.req = none) : Reaches s [] t := by
  simpa [acceptedWord_none hq] using Reaches.of_step h

/-! ### What a run shows to the host -/

/-- The configuration, what the host reads of the block (`PHASE`, `STATUS`, `TRACE`, the port) and the host's own fields. -/
structure HostView where
  params : Params
  phase : Phase
  status : BitVec 2
  trace : List TraceEntry
  req : Option ReqWord
  session : Session
  todo : List HostOp
  task : List HostAct
  report : Option HostReport

/-- What the host sees of a state. -/
def hostView (s : State) : HostView where
  params := s.params
  phase := s.phase
  status := s.status
  trace := s.trace
  req := s.req
  session := s.session
  todo := s.todo
  task := s.task
  report := s.report

/-- The controller takes what is delivered to it before any other agent moves (log 1): the run changes nothing else, and no word is
accepted in it. -/
theorem reaches_settled (s : State) : ∃ l f, Reaches s [] { s with lcd := l, frees := f } ∧ l.rx = none := by
  cases hx : s.lcd.rx with
  | none => exact ⟨s.lcd, s.frees, .refl s, hx⟩
  | some d =>
    obtain ⟨t, ht, ho⟩ := controllerStep_next d s.takeRx
    have hs : step s = .next { s with lcd := t.lcd, frees := t.frees } := by
      simp only [step, hx, ht]
      exact congrArg _ ho
    exact ⟨t.lcd, t.frees, .quiet hs (.inl (by simp [hx])), by simpa using (controllerStep_keeps ht).rx⟩

/-! ### A frame from its next byte to its end -/

/-- The bytes of the frame that are still to be sent (10_state.md R21, R22). -/
def unsent (s : State) : List Byte := (activeFrame s).drop s.k.toNat

/-- The next byte is the first of the unsent ones, and it is the last one exactly where `K` + 1 is `NW`. -/
theorem unsent_cons {s : State} {v : Byte} {rest : List Byte} (hn : s.nw ≤ 4) (h : unsent s = v :: rest) :
    nextByte s = some v ∧ (activeFrame s).drop (s.k + 1).toNat = rest ∧ (s.k + 1 = s.nw ↔ rest = []) := by
  have hn' : s.nw.toNat ≤ 4 := hn
  have hlen : min s.nw.toNat 4 - s.k.toNat = rest.length + 1 := by
    simpa [unsent, activeFrame] using congrArg List.length h
  have hk : s.k.toNat < s.nw.toNat := by omega
  have hk1 : (s.k + 1).toNat = s.k.toNat + 1 := by bv_omega
  refine ⟨?_, ?_, ?_⟩
  · have h0 : (unsent s)[0]? = some v := by rw [h]; rfl
    simpa [unsent, activeFrame, nextByte, BitVec.lt_def, hk, List.getElem?_take] using h0
  · rw [hk1, ← List.drop_drop]
    exact congrArg (List.drop 1) h
  · rw [← BitVec.toNat_inj, hk1, ← List.length_eq_zero_iff]
    omega

/-- What one write shows to the host (41_framer.md R82). -/
theorem hostView_emitWith (d : Draw) (v : Byte) (s : State) :
    hostView (emitWith d v s) =
      { hostView s with
        trace := s.trace ++ [{ addr := s.params.devAddr, byte := v, result := d.result }]
        status :=
          if d.result = .fail then statusTransportFailure else if s.k + 1 = s.nw then statusOk else s.status
        phase := if d.result = .fail ∨ s.k + 1 = s.nw then .idle else s.phase } := by
  rw [emitWith_eq]
  rfl

theorem hostView_takeAnswer (s : State) : hostView (takeAnswer s) = hostView s := by
  simp [hostView]

theorem answerAt_emitWith (d : Draw) (v : Byte) (s : State) : answerAt (emitWith d v s) = answerAt s := by
  rw [emitWith_eq]
  rfl

/-- One write of a busy block, once the controller has taken what was delivered to it. -/
theorem busy_write {v : Byte} {rest : List Byte} {s : State} (hp : s.phase = .busy) (hq : presenting s = false)
    (hn : s.nw ≤ 4) (hu : unsent s = v :: rest) :
    ∃ t, Reaches s [] t ∧
      hostView t =
        { hostView s with
          trace := s.trace ++ [⟨s.params.devAddr, v, (answerAt s 0).result⟩]
          status :=
            if (answerAt s 0).result = .fail then statusTransportFailure else if rest = [] then statusOk else s.status
          phase := if (answerAt s 0).result = .fail ∨ rest = [] then .idle else s.phase } ∧
      (answerAt t = fun n => answerAt s (n + 1)) ∧ t.nw = s.nw ∧ ((answerAt s 0).result = .ok → unsent t = rest) := by
  obtain ⟨l, f, hsettle, hx⟩ := reaches_settled s
  obtain ⟨hv, hrest, hlast⟩ := unsent_cons (s := { s with lcd := l, frees := f }) hn hu
  refine ⟨_, hsettle.trans (.quiet (step_emit hx hp hq hv) (.inr (.inl hp))), ?_, ?_, ?_, fun hr => ?_⟩
  · simp only [hostView_emitWith, hostView_takeAnswer, takeAnswer_params, takeAnswer_trace, takeAnswer_status,
      takeAnswer_phase, takeAnswer_k, takeAnswer_nw, hlast]
    rfl
  · funext n
    rw [answerAt_emitWith, answerAt_takeAnswer]
    rfl
  · rw [emitWith_eq]
    exact takeAnswer_nw _
  · replace hr : (answerAt { s with lcd := l, frees := f } 0).result = .ok := hr
    rw [emitWith_eq]
    simpa [unsent, activeFrame, hr] using hrest

/-- A write answered `ok` puts its entry before those of the rest of the frame (41_framer.md R83). -/
theorem runFrame_ok {a : BusAddr} {ans : Nat → Draw} {v : Byte} {rest : List Byte} (h : (ans 0).result = .ok) :
    runFrame a ans (v :: rest) =
      ((runFrame a (fun n => ans (n + 1)) rest).1, ⟨a, v, .ok⟩ :: (runFrame a (fun n => ans (n + 1)) rest).2) := by
  simp [runFrame, h]

/-- A block in the middle of its frame runs to `IDLE` with the status and the writes of `run` (41_framer.md R83) on the unsent bytes,
whatever the transport answers, and accepts nothing on the way. -/
theorem busy_runs {v : Byte} {rest : List Byte} {s : State} (hp : s.phase = .busy) (hq : presenting s = false)
    (hn : s.nw ≤ 4) (hu : unsent s = v :: rest) :
    ∃ t, Reaches s [] t ∧
      hostView t =
        { hostView s with
          phase := .idle
          status := (runFrame s.params.devAddr (answerAt s) (v :: rest)).1
          trace := s.trace ++ (runFrame s.params.devAddr (answerAt s) (v :: rest)).2 } ∧
      answerAt t = fun n => answerAt s (n + (runFrame s.params.devAddr (answerAt s) (v :: rest)).2.length) := by
  induction rest generalizing v s with
  | nil =>
    obtain ⟨t, hst, hview, hans, -, -⟩ := busy_write hp hq hn hu
    refine ⟨t, hst, ?_, ?_⟩ <;> cases hr : (answerAt s 0).result <;> simp [runFrame, hr, hview, hans]
  | cons x xs ih =>
    obtain ⟨t, hst, hview, hans, hnw, hun⟩ := busy_write hp hq hn hu
    cases hr : (answerAt s 0).result with
    | fail => exact ⟨t, hst, by simp [runFrame, hr, hview], by simp [runFrame, hr, hans]⟩
    | ok =>
      have hqt : presenting t = false := by
        rw [← hq]
        exact presenting_congr (congrArg HostView.req hview) (congrArg HostView.task hview) (congrArg HostView.todo hview)
      have hpt : t.phase = .busy := (congrArg HostView.phase hview).trans (by simp [hr, hp])
      obtain ⟨u, htu, hview', hans'⟩ := ih hpt hqt (by rwa [hnw]) (hun hr)
      have hparams : t.params = s.params := congrArg HostView.params hview
      have htrace : t.trace = s.trace ++ [⟨s.params.devAddr, v, .ok⟩] :=
        (congrArg HostView.trace hview).trans (by rw [hr])
      rw [hparams, hans] at hview' hans'
      refine ⟨u, hst.trans htu, ?_, ?_⟩
      · rw [hview', hview, htrace, runFrame_ok hr]
        simp
      · rw [hans', runFrame_ok hr]
        simp [Nat.add_assoc]

/-! ### A request of the host, from its call to its status -/

/-- The bytes of a request (41_framer.md R84 to R86; 42_command_encoder.md R102 to R108); none for a controller instruction. -/
def requestFrame (p : Params) : Instr → List Byte
  | .nib n => frameNibble p.wiring n
  | .cmd b => frameByte p.wiring b 0
  | .data b => frameByte p.wiring b 1
  | .clear => frameByte p.wiring (encClear p) 0
  | .home => frameByte p.wiring (encHome p) 0
  | .entry id sh => frameByte p.wiring (encEntry p id sh) 0
  | .dispctl d c b => frameByte p.wiring (encDispctl p d c b) 0
  | .shift sc rl => frameByte p.wiring (encShift p sc rl) 0
  | .funcset dl nl f => frameByte p.wiring (encFuncset p dl nl f) 0
  | .setddram row col => frameByte p.wiring (encDdram p (row.setWidth 8) (col.setWidth 8)) 0
  | _ => []

theorem exec_eq_acceptFrame {i : Instr} (hi : instrFamily i = none) (s : State) :
    exec i s = acceptFrame (requestFrame s.params i) s := by
  cases i with
  | hdClear | hdHome | hdEntry | hdDispctl | hdShift | hdFuncset | hdSetCgram | hdSetDdram => cases hi
  | _ => rfl

/-- A frame has two bytes or four (41_framer.md R92). -/
theorem requestFrame_length {i : Instr} (hi : instrFamily i = none) (p : Params) :
    (requestFrame p i).length = 2 ∨ (requestFrame p i).length = 4 := by
  cases i with
  | nib n => exact .inl rfl
  | hdClear | hdHome | hdEntry | hdDispctl | hdShift | hdFuncset | hdSetCgram | hdSetDdram => cases hi
  | _ => exact .inr rfl

/-- All of an accepted frame is still to be sent (41_framer.md R81). -/
theorem unsent_accepted {seq : List Byte} (h : seq.length = 2 ∨ seq.length = 4) (s : State) :
    unsent (accepted seq s) = seq := by
  rcases h with h | h
  · obtain ⟨a, b, rfl⟩ := List.length_eq_two.mp h
    rfl
  · match seq, h with
    | [a, b, c, d], _ => rfl

/-- The idle block accepts the legal word at its port and loads its frame (41_framer.md R81). -/
theorem reaches_accepted {w : ReqWord} {i : Instr} {s : State} (hx : s.lcd.rx = none) (hp : s.phase = .idle)
    (hr : s.req = some w) (hd : decode (.request w) = .ok i) :
    Reaches s [w] (accepted (requestFrame s.params i) s.takeReq) := by
  have hstep : step s = .next (accepted (requestFrame s.params i) s.takeReq) := by
    simp only [step, hx, hp, hr, acceptStep, hd, exec_eq_acceptFrame (decodeRequest_family hd)]
    exact acceptFrame_idle hp
  have hw : acceptedWord s = some w := by simp [acceptedWord, hx, hp, hr]
  simpa [hw] using Reaches.of_step hstep

/-- The host's next act, once the controller has taken what was delivered to it. -/
theorem act_runs {a : HostAct} {more : List HostAct} {s : State} (hp : s.phase = .idle) (hr : s.req = none)
    (ht : s.task = a :: more) : ∃ l f, Reaches s [] (hostAct a { s with lcd := l, frees := f, task := more }) ∧ l.rx = none := by
  obtain ⟨l, f, hsettle, hx⟩ := reaches_settled s
  exact ⟨l, f, hsettle.trans (.quiet (step_hostAct hx hp hr ht) (.inr (.inr hr))), hx⟩

theorem hostAct_check_ok {onFail : HostReport} {s : State} (h : s.status = statusOk) : hostAct (.check onFail) s = s := by
  simp [hostAct, errorReport, h]

/-- A legal request the host calls in the middle of an operation: the block accepts its word and runs its whole frame, and the host
goes on to its next act. -/
theorem call_runs {w : ReqWord} {i : Instr} {a : HostAct} {more : List HostAct} {s : State} (hp : s.phase = .idle)
    (hr : s.req = none) (ht : s.task = .call w :: a :: more) (hd : decode (.request w) = .ok i) :
    ∃ t, Reaches s [w] t ∧
      hostView t =
        { hostView s with
          status := (runFrame s.params.devAddr (answerAt s) (requestFrame s.params i)).1
          trace := s.trace ++ (runFrame s.params.devAddr (answerAt s) (requestFrame s.params i)).2
          task := a :: more } ∧
      answerAt t =
        fun n => answerAt s (n + (runFrame s.params.devAddr (answerAt s) (requestFrame s.params i)).2.length) := by
  obtain ⟨l, f, hcall, hx⟩ := act_runs hp hr ht
  have haccept := reaches_accepted (s := { s with lcd := l, frees := f, task := a :: more, req := some w }) hx hp rfl hd
  have hlen := requestFrame_length (decodeRequest_family hd) s.params
  obtain ⟨v, rest, hseq⟩ := List.exists_cons_of_length_pos (l := requestFrame s.params i) (by omega)
  obtain ⟨t, ht, hview, hans⟩ :=
    busy_runs
      (s := accepted (requestFrame s.params i) { s with lcd := l, frees := f, task := a :: more, req := none })
      rfl (by simp [presenting]) (by rcases hlen with h | h <;> simp [h]) ((unsent_accepted hlen _).trans hseq)
  rw [← hseq] at hview hans
  refine ⟨t, (hcall.trans haccept).trans ht, hview.trans ?_, hans⟩
  simp only [hostView, hp, hr]
  rfl

/-- The run of a frame whose writes are all answered `ok` (41_framer.md R83). -/
theorem runFrame_all_ok {a : BusAddr} {ans : Nat → Draw} {seq : List Byte} (h : ∀ j < seq.length, (ans j).result = .ok) :
    runFrame a ans seq = (statusOk, seq.map fun v => ⟨a, v, .ok⟩) := by
  induction seq generalizing ans with
  | nil => rfl
  | cons v rest ih =>
    rw [runFrame_ok (h 0 (by simp)), ih fun j hj => h (j + 1) (by simpa using hj)]
    rfl

/-- A request outside the handshake whose writes are all answered `ok`: the host reports success. -/
theorem plainCall_ok {w : ReqWord} {i : Instr} {s : State} (hp : s.phase = .idle) (hr : s.req = none)
    (ht : s.task = plainCall w) (hd : decode (.request w) = .ok i)
    (hok : ∀ j < (requestFrame s.params i).length, (answerAt s j).result = .ok) :
    ∃ t, Reaches s [w] t ∧
      hostView t =
        { hostView s with
          status := statusOk
          trace := s.trace ++ (requestFrame s.params i).map fun v => ⟨s.params.devAddr, v, .ok⟩
          task := []
          report := some .ok } ∧
      answerAt t = fun n => answerAt s (n + (requestFrame s.params i).length) := by
  obtain ⟨t, hst, hview, hans⟩ := call_runs hp hr ht hd
  rw [runFrame_all_ok hok] at hview hans
  have hpt : t.phase = .idle := (congrArg HostView.phase hview).trans hp
  have hrt : t.req = none := (congrArg HostView.req hview).trans hr
  have hst' : t.status = statusOk := congrArg HostView.status hview
  obtain ⟨l, f, hcheck, -⟩ := act_runs hpt hrt (congrArg HostView.task hview)
  rw [hostAct_check_ok (s := { t with lcd := l, frees := f, task := [.done] }) hst'] at hcheck
  obtain ⟨l', f', hdone, -⟩ :=
    act_runs (s := { t with lcd := l, frees := f, task := [.done] }) hpt hrt rfl
  refine ⟨_, (hst.trans hcheck).trans hdone, ?_, ?_⟩
  · exact congrArg (fun x : HostView => { x with task := [], report := some .ok }) hview
  · exact hans.trans (by simp)

/-! ### The on/off-control operations of the host -/

theorem decode_wordOf_dispctl (d c b : Bit) : decode (.request (wordOf (.dispctl d c b))) = .ok (.dispctl d c b) := by
  revert d c b
  decide

/-- The host's turn between two operations. -/
theorem step_beginOp {s : State} {op : HostOp} {later : List HostOp} (hx : s.lcd.rx = none) (hp : s.phase = .idle)
    (hr : s.req = none) (ht : s.task = []) (hd : s.todo = op :: later) :
    step s = .next (beginOp op { s with todo := later }) := by
  simp [step, hx, hp, hr, hostStep, ht, hd]

/-- The host is between two operations. -/
structure BetweenOps (s : State) : Prop where
  phase : s.phase = .idle
  req : s.req = none
  task : s.task = []

/-- `turnOn`, `turnOff` or `setCursor` with every write answered `ok` (00_scope.md R6): it brings the session up to date and sends
its on/off-control. -/
theorem displayOp_ok {op : HostOp} {d c b : Bit} {later : List HostOp} {s : State} (hs : BetweenOps s)
    (hd : s.todo = op :: later) (hop : ∀ u, beginOp op u = beginDisplay op u)
    (hacts : opActs s.params (sessionAfter op s.session) op = displayCall d c b)
    (hok : ∀ j < 4, (answerAt s j).result = .ok) :
    ∃ t, Reaches s [wordOf (.dispctl d c b)] t ∧ BetweenOps t ∧
      hostView t =
        { hostView s with
          status := statusOk
          trace := s.trace ++ (frameByte s.params.wiring (encDispctl s.params d c b) 0).map fun v => ⟨s.params.devAddr, v, .ok⟩
          session := sessionAfter op s.session
          todo := later
          task := []
          report := some .ok } ∧
      answerAt t = fun n => answerAt s (n + 4) := by
  obtain ⟨hp, hr, ht⟩ := hs
  obtain ⟨l, f, hsettle, hx⟩ := reaches_settled s
  have hbegin := step_beginOp (s := { s with lcd := l, frees := f }) hx hp hr ht hd
  rw [hop] at hbegin
  obtain ⟨t, hst, hview, hans⟩ :=
    plainCall_ok (s := beginDisplay op { s with lcd := l, frees := f, todo := later }) hp hr hacts
      (decode_wordOf_dispctl d c b) hok
  have hbetween : BetweenOps t :=
    ⟨(congrArg HostView.phase hview).trans hp, (congrArg HostView.req hview).trans hr, congrArg HostView.task hview⟩
  exact ⟨t, (hsettle.trans (.quiet hbegin (.inr (.inr hr)))).trans hst, hbetween, hview, hans⟩

/-- The word of on/off-control with the display on (30_encoding.md R60). -/
theorem wordOf_displayOn (c b : Bit) : wordOf (.dispctl 1 c b) = 0x7004#16 ||| c.setWidth 16 <<< 1 ||| b.setWidth 16 := by
  revert c b
  decide

/-- The byte of on/off-control with the display on (42_command_encoder.md R97). -/
theorem encDispctl_on {p : Params} (h : p.wellFormed = true) (c b : Bit) :
    encDispctl p 1 c b = 0x0C#8 ||| c.setWidth 8 <<< 1 ||| b.setWidth 8 := by
  obtain ⟨-, -, -, -, -, hc⟩ := params_values h
  rw [encDispctl, hc]
  revert c b
  decide

/-- The byte that turns the display off (42_command_encoder.md R97). -/
theorem encDispctl_off {p : Params} (h : p.wellFormed = true) : encDispctl p 0 0 0 = 0x08 := by
  obtain ⟨-, -, -, -, -, hc⟩ := params_values h
  rw [encDispctl, hc]
  decide

/-- The answers at the head of the list are the next ones. -/
theorem answerAt_ok_of_append {s : State} {ds rest : List Draw} (ha : s.answers = ds ++ rest)
    (hok : ∀ d ∈ ds, d.result = .ok) {j : Nat} (hj : j < ds.length) : (answerAt s j).result = .ok := by
  have hget : answerAt s j = ds[j] := by simp [answerAt, ha, List.getElem?_append_left hj, hj]
  exact hget ▸ hok _ (List.getElem_mem hj)

/-- Settles O57: the three operations one after another, each by `displayOp_ok`; only `setCursor` writes the flags. -/
theorem cursorFlagsSurviveDisplayOff : Obligations.CursorFlagsSurviveDisplayOff := by
  unfold Obligations.CursorFlagsSurviveDisplayOff
  intro s v b ds rest later hwf hp hr ht hd hdisp ha hlen hds
  have hok (j : Nat) (hj : j < 12) : (answerAt s j).result = .ok := answerAt_ok_of_append ha hds (hlen ▸ hj)
  obtain ⟨t, hst, htb, htv, hta⟩ :=
    displayOp_ok (d := 1) (c := v) (b := b) ⟨hp, hr, ht⟩ hd (fun _ => rfl) (by simp [opActs, sessionAfter, hdisp])
      fun j hj => hok j (by omega)
  have htp : t.params = s.params := congrArg HostView.params htv
  have hts : t.session = { s.session with cursor := v, blink := b, display := 1 } :=
    (congrArg HostView.session htv).trans (by simp [sessionAfter, hdisp])
  obtain ⟨u, htu, hub, huv, hua⟩ :=
    displayOp_ok (d := 0) (c := 0) (b := 0) htb (congrArg HostView.todo htv) (fun _ => rfl) (by simp [opActs, sessionAfter])
      fun j hj => by rw [hta]; exact hok _ (by omega)
  have hup : u.params = s.params := (congrArg HostView.params huv).trans htp
  have hus : u.session = { s.session with cursor := v, blink := b, display := 0 } :=
    (congrArg HostView.session huv).trans (by simp [sessionAfter, hts])
  obtain ⟨x, hux, hxb, hxv, -⟩ :=
    displayOp_ok (d := 1) (c := v) (b := b) hub (congrArg HostView.todo huv) (fun _ => rfl)
      (by simp [opActs, sessionAfter, hus]) fun j hj => by rw [hua, hta]; exact hok _ (by omega)
  obtain ⟨n, hrun, hwords⟩ := (hst.trans htu).trans hux
  refine ⟨n, x, hrun, ?_, congrArg HostView.report hxv, congrArg HostView.todo hxv, hxb.task, ?_, ?_⟩
  · exact (congrArg HostView.session hxv).trans (by simp [sessionAfter, hus, ← hdisp])
  · rw [hwords, wordOf_displayOn]
    rfl
  · rw [show x.trace = _ from congrArg HostView.trace hxv, show u.trace = _ from congrArg HostView.trace huv,
      show t.trace = _ from congrArg HostView.trace htv, hup, htp, encDispctl_on hwf, encDispctl_off hwf]
    simp

end Sys2Proof.Machine

/-! PROOFS of the family 10_state.md: the invariant of every step (O12), what the kinds of step write and leave (O10, O14, O16, O36,
O37), and what the block does not read (O18). -/

namespace Sys2Proof.Machine

/-! ### The bits of an expander byte -/

theorem lineOf_or (v w : Byte) (q : Fin 4) : lineOf (v ||| w) q = lineOf v q ||| lineOf w q :=
  BitVec.extractLsb'_or ..

theorem lineOf_lineMask (q r : Fin 4) : lineOf (lineMask q) r = if q = r then 1 else 0 := by
  revert q r
  decide

theorem lineOf_placeData {p : Wiring} (h : p.wellFormed = true) (n : Nibble) (q : Fin 4) : lineOf (placeData p n) q = 0 := by
  rw [placeData_eq h]
  revert n q
  decide

theorem dataOf_or {p : Wiring} (h : p.wellFormed = true) (v w : Byte) : dataOf p (v ||| w) = dataOf p v ||| dataOf p w := by
  simp only [dataOf_eq h]
  exact BitVec.extractLsb'_or ..

theorem dataOf_lineMask {p : Wiring} (h : p.wellFormed = true) (q : Fin 4) : dataOf p (lineMask q) = 0 := by
  rw [dataOf_eq h]
  revert q
  decide

/-! ### Frames drive the lines as 41_framer.md R91 says -/

/-- The control lines of a frame but for EN: BL at its level, RS as the frame has it, RW low (41_framer.md R87). -/
def controlBits (p : Wiring) (rs : Bit) : Byte := blBits p ||| (if rs = 1 then lineMask p.rs else 0)

theorem lineOf_controlBits {p : Wiring} (h : p.wellFormed = true) (rs : Bit) :
    lineOf (controlBits p rs) p.rs = rs ∧ lineOf (controlBits p rs) p.rw = 0 ∧ lineOf (controlBits p rs) p.en = 0 ∧
      lineOf (controlBits p rs) p.bl = p.blLevel := by
  obtain ⟨hrw, hen, hbl, -, hwb, heb⟩ := wiring_distinct h
  have hlevel : blBits p = lineMask p.bl := blBits_eq h
  have hrs : rs = 0 ∨ rs = 1 := by revert rs; decide
  rcases hrs with rfl | rfl <;>
    simp [controlBits, hlevel, lineOf_or, lineOf_lineMask, (wiring_values h).2.2, hrw, hen, hbl, hbl.symm, hwb.symm,
      heb.symm]

/-- One nibble with RS at `rs`, strobed: EN high and then low, over the same data and the same control lines. -/
theorem strobes_nibble {p : Wiring} (h : p.wellFormed = true) (n : Nibble) (rs : Bit) :
    strobes p (placeData p n ||| controlBits p rs ||| lineMask p.en) (placeData p n ||| controlBits p rs) = true := by
  obtain ⟨-, hse, -, hwe, -, heb⟩ := wiring_distinct h
  obtain ⟨-, hrw, hen, hbl⟩ := lineOf_controlBits h rs
  simp [strobes, wellDriven, lineOf_or, lineOf_placeData h, lineOf_lineMask, dataOf_or h, dataOf_lineMask h, hrw, hen, hbl,
    hse.symm, hwe.symm, heb]

theorem frameWf_frameNibble {p : Wiring} (h : p.wellFormed = true) (n : Nibble) : frameWf p (frameNibble p n) = true := by
  have hc : controlBits p 0 = blBits p := by simp [controlBits]
  have hs := strobes_nibble h n 0
  rw [hc] at hs
  exact hs

theorem frameWf_frameByte {p : Wiring} (h : p.wellFormed = true) (b : Byte) (rs : Bit) :
    frameWf p (frameByte p b rs) = true := by
  have hhi := strobes_nibble h (hiNibble b) rs
  have hlo := strobes_nibble h (loNibble b) rs
  have hrs : lineOf (placeData p (hiNibble b) ||| controlBits p rs ||| lineMask p.en) p.rs =
      lineOf (placeData p (loNibble b) ||| controlBits p rs ||| lineMask p.en) p.rs := by
    simp [lineOf_or, lineOf_placeData h]
  rw [controlBits] at hhi hlo hrs
  simp only [frameByte, frameWf, hhi, hlo, hrs, decide_true, Bool.and_self]

/-- A well-formed frame has two bytes or four (41_framer.md R92). -/
theorem frameWf_length {p : Wiring} {seq : List Byte} (h : frameWf p seq = true) : seq.length = 2 ∨ seq.length = 4 := by
  unfold frameWf at h
  split at h
  · exact .inl rfl
  · exact .inr rfl
  · cases h

theorem frameWf_wellDriven {p : Wiring} {seq : List Byte} {v : Byte} (h : frameWf p seq = true) (hv : v ∈ seq) :
    wellDriven p v = true := by
  unfold frameWf at h
  split at h
  next a b =>
    simp only [strobes, Bool.and_eq_true] at h
    simp only [List.mem_cons, List.not_mem_nil, or_false] at hv
    rcases hv with rfl | rfl <;> simp only [h]
  next a b c d =>
    simp only [strobes, Bool.and_eq_true] at h
    simp only [List.mem_cons, List.not_mem_nil, or_false] at hv
    rcases hv with rfl | rfl | rfl | rfl <;> simp only [h]
  next => cases h

/-- The byte of the next write is the one at `K` in `OBUF`, a byte of the frame (41_framer.md R82). -/
theorem nextByte_some {s : State} {v : Byte} (h : nextByte s = some v) :
    s.k < s.nw ∧ s.obuf[s.k.toNat]? = some v ∧ v ∈ activeFrame s := by
  obtain ⟨hk, hv⟩ : s.k < s.nw ∧ s.obuf[s.k.toNat]? = some v := by simpa [nextByte] using h
  have hk' : s.k.toNat < s.nw.toNat := hk
  exact ⟨hk, hv, List.mem_of_getElem? (i := s.k.toNat) (by simpa [activeFrame, List.getElem?_take, hk'] using hv)⟩

/-! ### `LCD.half` is known in `BIT4` only -/

/-- `LCD.half` is known in `BIT4` only (10_state.md R31; log 10). -/
def HalfInBit4 (s : State) : Prop := s.lcd.halfKnown = true → s.lcd.mode = .bit4

theorem deliver_halfInBit4 {n0 n : Nibble} {rs0 rs : Bit} {s : State} (h : HalfInBit4 s) :
    HalfInBit4 (deliver n0 rs0 n rs s) := by
  unfold deliver
  split
  · exact h
  · nofun

theorem latch_halfInBit4 {n : Nibble} {rs : Bit} {s : State} (h : HalfInBit4 s) : HalfInBit4 (latch n rs s) := by
  unfold latch
  simp only
  split
  · split
    · exact h
    · exact deliver_halfInBit4 (s := setHalf (halfAfter s.lcd.half n rs) s) h
  · nofun

theorem transmit_halfInBit4 {d : Draw} {v : Byte} {s : State} (h : HalfInBit4 s) : HalfInBit4 (transmit d v s) := by
  unfold transmit drive
  simp only
  split
  · split
    · exact latch_halfInBit4 (s := { present d v s with exp := v }) h
    · exact h
  · exact h

theorem completeFrame_halfInBit4 {v : Byte} {s : State} (h : HalfInBit4 s) : HalfInBit4 (completeFrame v s) := by
  unfold completeFrame completeNibble
  split
  · split
    · exact h
    · exact fun _ => rfl
  · exact h

theorem emitWith_halfInBit4 {d : Draw} {v : Byte} {s : State} (h : HalfInBit4 s) : HalfInBit4 (emitWith d v s) := by
  have ht := transmit_halfInBit4 (d := d) (v := v) h
  unfold emitWith
  simp only
  split
  · nofun
  · split
    · exact completeFrame_halfInBit4 (s := { transmit d v s with k := (transmit d v s).k + 1 }) ht
    · exact ht

/-! ### What one write leaves of the block -/

@[simp] theorem emitWith_params (d : Draw) (v : Byte) (s : State) : (emitWith d v s).params = s.params := by
  rw [emitWith_eq]

@[simp] theorem emitWith_obuf (d : Draw) (v : Byte) (s : State) : (emitWith d v s).obuf = s.obuf := by rw [emitWith_eq]

@[simp] theorem emitWith_nw (d : Draw) (v : Byte) (s : State) : (emitWith d v s).nw = s.nw := by rw [emitWith_eq]

@[simp] theorem emitWith_k (d : Draw) (v : Byte) (s : State) :
    (emitWith d v s).k = if d.result = .ok then s.k + 1 else s.k := by rw [emitWith_eq]

@[simp] theorem emitWith_phase (d : Draw) (v : Byte) (s : State) :
    (emitWith d v s).phase = if d.result = .fail ∨ s.k + 1 = s.nw then .idle else s.phase := by rw [emitWith_eq]

@[simp] theorem emitWith_status (d : Draw) (v : Byte) (s : State) :
    (emitWith d v s).status =
      if d.result = .fail then statusTransportFailure else if s.k + 1 = s.nw then statusOk else s.status := by
  rw [emitWith_eq]

@[simp] theorem emitWith_out (d : Draw) (v : Byte) (s : State) : (emitWith d v s).out = v := by rw [emitWith_eq]

@[simp] theorem emitWith_outWritten (d : Draw) (v : Byte) (s : State) : (emitWith d v s).outWritten = true := by
  rw [emitWith_eq]

@[simp] theorem emitWith_trace (d : Draw) (v : Byte) (s : State) :
    (emitWith d v s).trace = s.trace ++ [⟨s.params.devAddr, v, d.result⟩] := by rw [emitWith_eq]

@[simp] theorem emitWith_exp (d : Draw) (v : Byte) (s : State) :
    (emitWith d v s).exp = if reaches d then v else s.exp := by rw [emitWith_eq]

@[simp] theorem emitWith_session (d : Draw) (v : Byte) (s : State) : (emitWith d v s).session = s.session := by
  rw [emitWith_eq]

@[simp] theorem emitWith_answers (d : Draw) (v : Byte) (s : State) : (emitWith d v s).answers = s.answers := by
  rw [emitWith_eq]

@[simp] theorem emitWith_drawn (d : Draw) (v : Byte) (s : State) : (emitWith d v s).drawn = s.drawn := by
  rw [emitWith_eq]

/-- The block is `BUSY` after a write only where it succeeded and is not the last of its frame (41_framer.md R82). -/
theorem emitWith_busy {d : Draw} {v : Byte} {s : State} (h : (emitWith d v s).phase = .busy) :
    d.result = .ok ∧ s.k + 1 ≠ s.nw := by
  rw [emitWith_phase] at h
  split at h
  · cases h
  next hgo =>
    obtain ⟨hr, hne⟩ := not_or.mp hgo
    exact ⟨by cases hd : d.result <;> simp [hd] at hr ⊢, hne⟩

/-! ### The invariant of every kind of step -/

theorem controllerStep_only {d : Delivered} {s t : State} (h : controllerStep d s = .next t) : OnlyController s t := by
  obtain ⟨u, hu, ho⟩ := controllerStep_next d s
  obtain rfl : t = u := Host.Outcome.next.inj (h.symm.trans hu)
  exact ho

/-- A step of the controller keeps the invariant if it keeps what the invariant says of the controller. -/
theorem Inv.of_onlyController {s t : State} (hs : Inv s) (h : OnlyController s t) (hhalf : HalfInBit4 t)
    (hd : ddramWf t.lcd.ddram = true) : Inv t := by
  rw [h]
  exact { hs with half := hhalf, ddram := hd }

theorem Inv.takeRx {s : State} (hs : Inv s) : Inv s.takeRx := { hs with }

theorem Inv.takeReq {s : State} (hs : Inv s) : Inv s.takeReq := { hs with }

theorem Inv.takeAnswer {s : State} (hs : Inv s) : Inv (takeAnswer s) := by
  unfold Machine.takeAnswer
  split <;> exact { hs with }

theorem Inv.hostStep {s : State} (hs : Inv s) : Inv (hostStep s) := by
  rw [hostStep_eq]
  exact { hs with }

theorem Inv.controllerStep {d : Delivered} {s t : State} (hs : Inv s) (h : controllerStep d s = .next t) : Inv t :=
  hs.of_onlyController (controllerStep_only h) ((controllerStep_keeps h).known hs.half) (controllerStep_ddramWf h hs.ddram)

/-- Accepting a well-formed frame keeps the invariant (41_framer.md R81). -/
theorem Inv.accepted {seq : List Byte} {s : State} (hs : Inv s) (hf : frameWf s.params.wiring seq = true) :
    Inv (accepted seq s) := by
  have hlen := frameWf_length hf
  have hframe : activeFrame (Machine.accepted seq s) = seq := unsent_accepted hlen s
  exact
    { hs with
      stepIndex := by simp
      counts := fun _ => by rcases hlen with h | h <;> simp [h]
      frame := fun _ => by rw [hframe]; exact hf
      strobe := fun _ => by simp }

theorem Inv.rejectRequest {s : State} (hs : Inv s) : Inv (rejectRequest s) :=
  { hs with status := by simp, counts := nofun, frame := nofun, strobe := nofun }

theorem Inv.acceptStep {w : ReqWord} {s t : State} (hs : Inv s) (h : acceptStep w s = .next t) : Inv t := by
  have hw := (params_values hs.config).1
  rcases acceptStep_cases h with ⟨seq, -, rfl, ⟨n, rfl⟩ | ⟨b, rs, rfl⟩⟩ | rfl
  · exact hs.accepted (frameWf_frameNibble hw n)
  · exact hs.accepted (frameWf_frameByte hw b rs)
  · exact hs.rejectRequest

/-- One write of the busy block keeps the invariant (41_framer.md R82). -/
theorem Inv.emitWith {d : Draw} {v : Byte} {s : State} (hs : Inv s) (hp : s.phase = .busy) (hv : nextByte s = some v) :
    Inv (emitWith d v s) := by
  obtain ⟨hk, hobuf, hmem⟩ := nextByte_some hv
  obtain ⟨hnw, -⟩ := hs.counts hp
  have hdriven : wellDriven s.params.wiring v = true := frameWf_wellDriven (hs.frame hp) hmem
  exact
    { config := by simpa using hs.config
      status := by
        rw [emitWith_status]
        split_ifs
        · decide
        · decide
        · exact hs.status
      stepIndex := by
        rw [emitWith_k]
        split_ifs
        · rcases hnw with h | h <;> bv_omega
        · exact hs.stepIndex
      half := emitWith_halfInBit4 hs.half
      ddram := emitWith_ddramWf hs.ddram
      trace := by simp [hs.trace, entryWf, hdriven]
      out := by simp
      counts := fun hb => by
        obtain ⟨hr, hne⟩ := emitWith_busy hb
        rw [emitWith_nw, emitWith_k, if_pos hr]
        exact ⟨hnw, by bv_omega⟩
      frame := fun _ => by simpa [activeFrame] using hs.frame hp
      strobe := fun hb _ => by
        obtain ⟨hr, -⟩ := emitWith_busy hb
        simpa [hr, reaches] using hobuf }

/-- Settles O12: each of the four kinds of step keeps the invariant. -/
theorem stepKeepsInvariant : Obligations.StepKeepsInvariant := by
  unfold Obligations.StepKeepsInvariant
  intro s t hs h
  rcases step_cases h with ⟨d, -, hd⟩ | ⟨-, hp, -, v, hv, rfl⟩ | ⟨-, -, w, -, ha⟩ | ⟨-, -, -, rfl⟩
  · exact hs.takeRx.controllerStep hd
  · exact hs.takeAnswer.emitWith (by simpa using hp) (by simpa [nextByte] using hv)
  · exact hs.takeReq.acceptStep ha
  · exact hs.hostStep

/-! ### What every step writes and leaves -/

/-- A step that writes nothing to the bus leaves the configuration, `OUT`, `TRACE` and `EXP` as they were. -/
structure KeepsBus (s t : State) : Prop where
  params : t.params = s.params
  out : t.out = s.out
  outWritten : t.outWritten = s.outWritten
  trace : t.trace = s.trace
  exp : t.exp = s.exp

theorem OnlyController.keepsBus {s t : State} (h : OnlyController s t) : KeepsBus s t := by
  rw [OnlyController] at h
  rw [h]
  exact ⟨rfl, rfl, rfl, rfl, rfl⟩

theorem hostStep_keepsBus (s : State) : KeepsBus s (hostStep s) := by
  rw [hostStep_eq]
  exact ⟨rfl, rfl, rfl, rfl, rfl⟩

theorem acceptStep_keepsBus {w : ReqWord} {s t : State} (h : acceptStep w s = .next t) : KeepsBus s t := by
  rcases acceptStep_cases h with ⟨seq, -, rfl, -⟩ | rfl
  · exact ⟨rfl, rfl, rfl, rfl, rfl⟩
  · exact ⟨rfl, rfl, rfl, rfl, rfl⟩

/-- The block's turn in `BUSY` is one write (41_framer.md R82). -/
def WritesOnce (s t : State) : Prop :=
  s.lcd.rx = none ∧ s.phase = .busy ∧ ∃ v, nextByte s = some v ∧ t = emitWith (answerAt s 0) v (takeAnswer s)

/-- A step is the one write of the busy block, or it writes nothing to the bus. -/
theorem step_writes_or_keepsBus {s t : State} (h : step s = .next t) :
    WritesOnce s t ∨ ((s.lcd.rx ≠ none ∨ s.phase = .idle) ∧ KeepsBus s t) := by
  rcases step_cases h with ⟨d, hx, hd⟩ | ⟨hx, hp, -, v, hv, ht⟩ | ⟨-, hp, w, -, ha⟩ | ⟨-, hp, -, rfl⟩
  · have hk := (controllerStep_only hd).keepsBus
    exact .inr ⟨.inl (by simp [hx]), hk.params, hk.out, hk.outWritten, hk.trace, hk.exp⟩
  · exact .inl ⟨hx, hp, v, hv, nextAnswer_eq s ▸ ht⟩
  · have hk := acceptStep_keepsBus ha
    exact .inr ⟨.inr hp, hk.params, hk.out, hk.outWritten, hk.trace, hk.exp⟩
  · exact .inr ⟨.inr hp, hostStep_keepsBus s⟩

/-- Settles O14: neither a write nor any other step changes the configuration. -/
theorem stepKeepsConfiguration : Obligations.StepKeepsConfiguration := by
  unfold Obligations.StepKeepsConfiguration
  intro s t h
  rcases step_writes_or_keepsBus h with ⟨-, -, v, -, rfl⟩ | ⟨-, hk⟩
  · simp
  · exact hk.params

/-- Settles O10: the value of `OUT` is the invariant's, and only a write, which adds to `TRACE`, sets it. -/
theorem outReadsLastByte : Obligations.OutReadsLastByte := by
  unfold Obligations.OutReadsLastByte
  intro s t hs h
  refine ⟨?_, fun htrace => ?_⟩
  · have hout := (stepKeepsInvariant s t hs h).out
    cases hl : t.trace.getLast? with
    | none =>
      have hw : t.outWritten = false := by simpa [hl] using hout
      simp [readOut, hw]
    | some e =>
      obtain ⟨hw, ho⟩ : t.outWritten = true ∧ t.out = e.byte := by simpa [hl] using hout
      simp [readOut, hw, ho]
  · rcases step_writes_or_keepsBus h with ⟨-, -, v, -, rfl⟩ | ⟨-, hk⟩
    · simp at htrace
    · exact ⟨hk.out, hk.outWritten⟩

/-- Settles O16: of the four kinds of step only the host's writes the session. -/
theorem onlyHostWritesSession : Obligations.OnlyHostWritesSession := by
  unfold Obligations.OnlyHostWritesSession
  intro s t h hne
  rcases step_cases h with ⟨d, -, hd⟩ | ⟨-, -, -, v, -, rfl⟩ | ⟨-, -, w, -, ha⟩ | ⟨hx, hp, hr, -⟩
  · exact absurd (congrArg State.session (controllerStep_only hd)) hne
  · exact absurd (by simp) hne
  · rcases acceptStep_cases ha with ⟨seq, -, rfl, -⟩ | rfl
    · exact absurd rfl hne
    · exact absurd rfl hne
  · exact ⟨hp, hr, hx⟩

/-- Settles O36: acceptance puts `K` to 0, and the busy block's write counts where it succeeds. -/
theorem stepIndexCountsWrites : Obligations.StepIndexCountsWrites := by
  unfold Obligations.StepIndexCountsWrites
  refine ⟨fun seq s t h => ?_, fun s t hs hx hp h => ?_⟩
  · obtain ⟨-, rfl⟩ := acceptFrame_cases h
    rfl
  · rcases step_writes_or_keepsBus h with ⟨-, -, v, -, rfl⟩ | ⟨hx' | hp', -⟩
    · exact ⟨fun hr => by simp [hr, hp], fun hr => by simp [hr]⟩
    · exact absurd hx hx'
    · simp [hp] at hp'

/-- Settles O37: the busy block's write sets `EXP` where it reaches the expander, and no other step touches it. -/
theorem expanderAfterWrite : Obligations.ExpanderAfterWrite := by
  unfold Obligations.ExpanderAfterWrite
  intro s t h
  rcases step_writes_or_keepsBus h with ⟨hx, hp, v, hv, rfl⟩ | ⟨hturn, hk⟩
  · exact .inl ⟨hx, hp, v, hv, fun hr => by simp [reaches, hr], fun hr => by simp [reaches, hr]⟩
  · exact .inr ⟨hturn, hk.exp⟩

/-! ### What the block does not read -/

/-- The idle block loads the frame of a legal word (41_framer.md R81). -/
theorem acceptStep_legal {w : ReqWord} {i : Instr} {s : State} (hp : s.phase = .idle) (hd : decode (.request w) = .ok i) :
    acceptStep w s = .next (accepted (requestFrame s.params i) s) := by
  simp only [acceptStep, hd, exec_eq_acceptFrame (decodeRequest_family hd), acceptFrame_idle hp]

/-- The idle block rejects an illegal word (60_exceptions.md R125). -/
theorem acceptStep_illegal {w : ReqWord} {e : DecodeError} (hd : decode (.request w) = .error e) (s : State) :
    acceptStep w s = .next (rejectRequest s) := by
  simp only [acceptStep, hd]

/-- The block's turn in `IDLE`, with a word at its port (41_framer.md R81). -/
theorem step_accept {w : ReqWord} {s : State} (hx : s.lcd.rx = none) (hp : s.phase = .idle) (hr : s.req = some w) :
    step s = acceptStep w s.takeReq := by
  simp only [step, hx, hp, hr]

section Surroundings

variable (tr : List TraceEntry) (e : Byte) (l : Lcd) (se : Session) (f : Nat)

/-- The state with another `TRACE`, `EXP`, controller and session: nothing the block reads (10_state.md R31 to R33). -/
def withSurroundings (s : State) : State := { s with trace := tr, exp := e, lcd := l, session := se, frees := f }

theorem takeAnswer_withSurroundings (s : State) :
    takeAnswer (withSurroundings tr e l se f s) = withSurroundings tr e l se f (takeAnswer s) := by
  cases h : s.answers <;> simp [takeAnswer, withSurroundings, h]

theorem acceptStep_withSurroundings {w : ReqWord} {s t : State} (hp : s.phase = .idle) (h : acceptStep w s = .next t) :
    acceptStep w (withSurroundings tr e l se f s) = .next (withSurroundings tr e l se f t) := by
  cases hd : decode (.request w) with
  | ok i =>
    rw [acceptStep_legal hp hd] at h
    cases h
    exact acceptStep_legal hp hd
  | error err =>
    rw [acceptStep_illegal hd] at h
    cases h
    exact acceptStep_illegal hd _

end Surroundings

/-- Settles O18: a write and an acceptance are each the same operation in both states, on fields in which they agree. -/
theorem blockReadsNothingBack : Obligations.BlockReadsNothingBack := by
  unfold Obligations.BlockReadsNothingBack
  intro s t tr e l se f hx hl hturn h
  rcases step_cases h with ⟨d, hd, -⟩ | ⟨-, hp, hq, v, hv, rfl⟩ | ⟨-, hp, w, hw, ha⟩ | ⟨-, hp, hr, -⟩
  · simp [hx] at hd
  · have hstep := step_emit (s := withSurroundings tr e l se f s) hl hp hq hv
    have hans : answerAt (withSurroundings tr e l se f s) 0 = nextAnswer s := (nextAnswer_eq s).symm
    rw [hans, takeAnswer_withSurroundings] at hstep
    exact ⟨_, hstep, by simp [withSurroundings]⟩
  · have hstep := step_accept (s := withSurroundings tr e l se f s) hl hp hw
    have hboth := acceptStep_withSurroundings tr e l se f (s := s.takeReq) hp ha
    refine ⟨_, hstep.trans hboth, rfl, rfl, rfl, rfl, rfl, rfl, rfl, rfl, [], ?_, ?_⟩
    · simpa using (acceptStep_keepsBus ha).trace
    · simp [withSurroundings]
  · simp [hp, hr] at hturn

end Sys2Proof.Machine

/-! PROOFS of the family 20_memory.md: a data byte at the address counter (O54). -/

namespace Sys2Proof.Machine

/-! ### The address counter -/

/-- The cursor moves up inside the 7 bits (20_memory.md R50). -/
theorem moveCursor_up {s : State} (hd : s.lcd.regs.acDdram = 1) (ha : s.lcd.regs.ac ≠ 0x7F) :
    moveCursor true s = setRegs { s.lcd.regs with ac := s.lcd.regs.ac + 1 } s :=
  moveCursor_beside hd (if_neg ha)

/-- The cursor moves down inside the 7 bits (20_memory.md R50). -/
theorem moveCursor_down {s : State} (hd : s.lcd.regs.acDdram = 1) (ha : s.lcd.regs.ac ≠ 0) :
    moveCursor false s = setRegs { s.lcd.regs with ac := s.lcd.regs.ac - 1 } s :=
  moveCursor_beside hd (if_neg ha)

/-- Where no address is beside it, the counter is a free value (log 16). -/
theorem moveCursor_open {up : Bool} {s : State} (h : addrBeside up s.lcd.regs.ac = none) :
    moveCursor up s =
      { setRegs { s.lcd.regs with ac := Config.anyAddr s.frees } s with frees := s.frees + 1 } := by
  rw [moveCursor, h, ite_self]

/-- A cursor move does not depend on what DDRAM holds. -/
theorem moveCursor_setDdram (up : Bool) (m : Ddram) {s : State} (hd : s.lcd.regs.acDdram = 1) :
    moveCursor up (setDdram m s) = setDdram m (moveCursor up s) := by
  cases h : addrBeside up s.lcd.regs.ac with
  | none =>
    rw [moveCursor_open h, moveCursor_open (s := setDdram m s) h]
    rfl
  | some a =>
    rw [moveCursor_beside hd h, moveCursor_beside (s := setDdram m s) hd h]
    rfl

/-! ### A data byte taken into DDRAM -/

section TakeData

variable {b : Byte} {s : State} (hd : s.lcd.regs.acDdram = 1)
include hd

/-- The counter moves as a cursor move by the entry mode does, the display shift is open for S = 1 (30_encoding.md R64), and the
other registers stay. -/
theorem takeData_regs :
    (takeData b s).lcd.regs =
      { s.lcd.regs with
        ac := (moveCursor (s.lcd.regs.entryId = 1) s).lcd.regs.ac
        shift :=
          if s.lcd.regs.entryS = 1 then Config.anyShift (moveCursor (s.lcd.regs.entryId = 1) s).frees
          else s.lcd.regs.shift } := by
  unfold takeData
  rw [if_pos hd, moveCursor_setDdram _ _ hd]
  dsimp only
  split
  · simp only [shiftSomehow, setRegs, setDdram]
    rw [moveCursor_lcd]
  · simp only [setDdram]
    rw [moveCursor_lcd]

/-- No register but the counter and the display shift changes. -/
theorem takeData_regs_frame :
    (takeData b s).lcd.regs =
      { s.lcd.regs with ac := (takeData b s).lcd.regs.ac, shift := (takeData b s).lcd.regs.shift } := by
  rw [takeData_regs hd]

/-- With S = 0 the display shift stays too. -/
theorem takeData_regs_unshifted (hS : s.lcd.regs.entryS = 0) :
    (takeData b s).lcd.regs = { s.lcd.regs with ac := (takeData b s).lcd.regs.ac } := by
  have hne : ¬ s.lcd.regs.entryS = 1 := by simp [hS]
  rw [takeData_regs hd, if_neg hne]

theorem takeData_ac_increment (hI : s.lcd.regs.entryId = 1) (ha : s.lcd.regs.ac ≠ 0x7F) :
    (takeData b s).lcd.regs.ac = s.lcd.regs.ac + 1 := by
  rw [takeData_regs hd, decide_eq_true hI, moveCursor_up hd ha]
  rfl

theorem takeData_ac_decrement (hI : s.lcd.regs.entryId = 0) (ha : s.lcd.regs.ac ≠ 0) :
    (takeData b s).lcd.regs.ac = s.lcd.regs.ac - 1 := by
  have hne : ¬ s.lcd.regs.entryId = 1 := by simp [hI]
  rw [takeData_regs hd, decide_eq_false hne, moveCursor_down hd ha]
  rfl

/-- The byte is at the counter's address, and every other address reads as before (20_memory.md R50). -/
theorem takeData_read (hw : ddramWf s.lcd.ddram = true) (x : DdAddr) :
    ddramRead (takeData b s).lcd.ddram x = if x = s.lcd.regs.ac then b else ddramRead s.lcd.ddram x := by
  rw [takeData_lcd hd]
  simpa only [eq_comm] using ddramRead_write s.lcd.regs.ac x b hw

/-- Nothing but DDRAM, the registers and the counter of free values changes. -/
theorem takeData_frame :
    takeData b s =
      { s with
        frees := (takeData b s).frees
        lcd := { s.lcd with ddram := (takeData b s).lcd.ddram, regs := (takeData b s).lcd.regs } } := by
  have honly := takeData_only b s
  rw [OnlyController, takeData_lcd hd] at honly
  rw [honly]

end TakeData

/-! ### The step that takes a data byte -/

theorem step_data {b : Byte} {s : State} (hx : s.lcd.rx = some ⟨b, 1⟩) : step s = .next (takeData b s.takeRx) := by
  simp only [step, hx, controllerStep, if_true]

/-- Settles O54: the step is `takeData`, which is a DDRAM write at the counter and then a cursor move. -/
theorem dataByteWrittenAtCounter : Obligations.DataByteWrittenAtCounter := by
  unfold Obligations.DataByteWrittenAtCounter
  intro s b hx hd hw
  have hd' : s.takeRx.lcd.regs.acDdram = 1 := hd
  exact ⟨takeData b s.takeRx, step_data hx, takeData_read hd' hw, takeData_ac_increment hd',
    takeData_ac_decrement hd', takeData_regs_unshifted hd', takeData_regs_frame hd', takeData_frame hd'⟩

end Sys2Proof.Machine

/-! PROOFS of the family 30_encoding.md: the two encodings and their inverses (O1, O2), the illegal words (O3), the assembler (O8), sample
words and the families (O4, O5), and the controller's instructions (O50 to O53). -/

namespace Sys2Proof

/-! ### Decoding what was encoded -/

/-- Decoding gives every operand back. A row's guard and fields read no more than the operand's bits, at most eight of them, so each
row is a check of its operand values. -/
theorem decode_encode (i : Instr) : decode (encode i) = .ok i := by
  cases i with
  | nib n => revert n; decide
  | cmd b => revert b; decide
  | data b => revert b; decide
  | clear => rfl
  | home => rfl
  | entry id s => revert id s; decide
  | dispctl d c b => revert d c b; decide
  | shift sc rl => revert sc rl; decide
  | funcset dl nl f => revert dl nl f; decide
  | setddram row col => revert row col; decide
  | hdClear => rfl
  | hdHome dc => revert dc; decide
  | hdEntry id s => revert id s; decide
  | hdDispctl d c b => revert d c b; decide
  | hdShift sc rl dc => revert sc rl dc; decide
  | hdFuncset dl nl f dc => revert dl nl f dc; decide
  | hdSetCgram acg => revert acg; decide
  | hdSetDdram add => revert add; decide

/-- Settles O1. -/
theorem decodeInvertsEncode : Obligations.DecodeInvertsEncode := by
  unfold Obligations.DecodeInvertsEncode
  exact fun i _ => decode_encode i

/-! ### Encoding what was decoded -/

/-- A field put back at its place is the word with every other bit cleared. -/
theorem field_in_place {m : Nat} (w : BitVec m) (lo n : Nat) :
    (field w lo n).setWidth m <<< lo = w &&& ((BitVec.allOnes n).setWidth m <<< lo) := by
  ext i hi
  simp only [field, BitVec.getElem_shiftLeft, BitVec.getElem_and, BitVec.getElem_setWidth, BitVec.getLsbD_extractLsb',
    BitVec.getLsbD_allOnes]
  grind

/-- The lowest field is in its place without a shift. -/
theorem field_in_place_zero {m : Nat} (w : BitVec m) (n : Nat) :
    (field w 0 n).setWidth m = w &&& (BitVec.allOnes n).setWidth m := by
  simpa using field_in_place w 0 n

/-- A word whose masked bits are those of `row` is `row` with the word's other bits. -/
theorem or_and_of_row {m : Nat} {w mask row rest : BitVec m} (h : w &&& mask = row)
    (hrest : mask ||| rest = BitVec.allOnes m) : row ||| (w &&& rest) = w := by
  rw [← h, ← BitVec.and_or_distrib_left, hrest, BitVec.and_allOnes]

/-- A legal request word is its row's match and its fields (R60), which together hold all its bits. -/
theorem encode_decodeRequest {w : ReqWord} {i : Instr} (h : decode (.request w) = .ok i) : encode i = .request w := by
  simp only [decode, decodeRequest] at h
  split_ifs at h with h1 h2 h3 h4 h5 h6 h7 h8 h9 h10 <;> cases h <;>
    simp only [encode, field_in_place, field_in_place_zero, BitVec.or_assoc, ← BitVec.and_or_distrib_left,
      Code.request.injEq]
  · exact or_and_of_row h1 (by decide)
  · exact or_and_of_row h2 (by decide)
  · exact or_and_of_row h3 (by decide)
  · exact h4.symm
  · exact h5.symm
  · exact or_and_of_row h6 (by decide)
  · exact or_and_of_row h7 (by decide)
  · exact or_and_of_row h8 (by decide)
  · exact or_and_of_row h9 (by decide)
  · exact or_and_of_row h10 (by decide)

/-- A command byte of a family is its row's match and its fields (R64), which together hold all its bits. -/
theorem encode_decodeCommand {b : Byte} {i : Instr} (h : decode (.command b) = .ok i) : encode i = .command b := by
  simp only [decode, decodeCommand] at h
  split_ifs at h with h1 h2 h3 h4 h5 h6 h7 h8 <;> cases h <;>
    simp only [encode, field_in_place, field_in_place_zero, BitVec.or_assoc, ← BitVec.and_or_distrib_left,
      Code.command.injEq]
  · exact or_and_of_row h1 (by decide)
  · exact or_and_of_row h2 (by decide)
  · exact or_and_of_row h3 (by decide)
  · exact or_and_of_row h4 (by decide)
  · exact or_and_of_row h5 (by decide)
  · exact or_and_of_row h6 (by decide)
  · exact or_and_of_row h7 (by decide)
  · exact h8.symm

/-- Settles O2. -/
theorem encodeInvertsDecode : Obligations.EncodeInvertsDecode := by
  unfold Obligations.EncodeInvertsDecode
  intro c i h
  cases c with
  | request w => exact encode_decodeRequest h
  | command b => exact encode_decodeCommand h

/-! ### Illegal request words -/

/-- A request word is its `OP`, `RES` and `ARG` (R58). -/
theorem request_ext_iff {v w : ReqWord} :
    v = w ↔ field v 12 4 = field w 12 4 ∧ field v 8 4 = field w 8 4 ∧ field v 0 8 = field w 0 8 := by
  refine ⟨fun h => by simp [h], fun ⟨hop, hres, harg⟩ => ?_⟩
  have parts (u : ReqWord) : field u 12 4 ++ (field u 8 4 ++ field u 0 8) = u := by
    ext i hi
    simp only [field]
    grind
  rw [← parts v, hop, hres, harg, parts]

/-- A row of R60: its `OP`, no bit of `RES`, and no `ARG` bit that the row does not name. -/
theorem request_row_iff {w mask row : ReqWord} {op : Nibble} {reserved : Byte}
    (hmask : field mask 12 4 = 0xF ∧ field mask 8 4 = 0xF ∧ field mask 0 8 = reserved)
    (hrow : field row 12 4 = op ∧ field row 8 4 = 0 ∧ field row 0 8 = 0) :
    w &&& mask = row ↔ field w 12 4 = op ∧ field w 8 4 = 0 ∧ field w 0 8 &&& reserved = 0 := by
  obtain ⟨m1, m2, m3⟩ := hmask
  obtain ⟨r1, r2, r3⟩ := hrow
  have field_and (lo n : Nat) : field (w &&& mask) lo n = field w lo n &&& field mask lo n := BitVec.extractLsb'_and
  have and_ones (x : Nibble) : x &&& 0xF = x := BitVec.and_allOnes
  simp only [request_ext_iff, field_and, m1, m2, m3, r1, r2, r3, and_ones]

/-- A row without operands is one word. -/
theorem request_word_iff {w row : ReqWord} {op : Nibble}
    (hrow : field row 12 4 = op ∧ field row 8 4 = 0 ∧ field row 0 8 = 0) :
    w = row ↔ field w 12 4 = op ∧ field w 8 4 = 0 ∧ field w 0 8 &&& 0xFF = 0 := by
  have hw : w &&& BitVec.allOnes 16 = w := BitVec.and_allOnes
  rw [← request_row_iff (mask := BitVec.allOnes 16) (by decide) hrow, hw]

/-- A request word is illegal where it is in none of the ten rows (R62). -/
theorem decodeRequest_error_iff {w : ReqWord} :
    (∃ e, decode (.request w) = .error e) ↔
      ¬ w &&& 0xFFF0 = 0x1000 ∧ ¬ w &&& 0xFF00 = 0x2000 ∧ ¬ w &&& 0xFF00 = 0x3000 ∧ ¬ w = 0x4000 ∧ ¬ w = 0x5000 ∧
      ¬ w &&& 0xFFFC = 0x6000 ∧ ¬ w &&& 0xFFF8 = 0x7000 ∧ ¬ w &&& 0xFFF3 = 0x8000 ∧ ¬ w &&& 0xFFE3 = 0x9000 ∧
      ¬ w &&& 0xFFB0 = 0xA000 := by
  rw [decode, decodeRequest]
  split_ifs <;> simp only [*, not_true_eq_false, not_false_eq_true, false_and, and_false, and_true, exists_false,
    Except.error.injEq, exists_eq']

/-- The `ARG` bits that the row of `op` does not name (R60); nothing for an `OP` without a row. -/
def reservedArg (op : Nibble) : Byte :=
  match op.toNat with
  | 1 => 0xF0 | 2 => 0x00 | 3 => 0x00 | 4 => 0xFF | 5 => 0xFF | 6 => 0xFC | 7 => 0xF8 | 8 => 0xF3 | 9 => 0xE3
  | 10 => 0xB0 | _ => 0x00

/-- The reasons of R61: one `OP` after the other, its row against the list. -/
theorem illegal_request_iff (w : ReqWord) :
    (∃ e, decode (.request w) = .error e) ↔
      field w 12 4 = 0 ∨ 0xB ≤ field w 12 4 ∨ field w 8 4 ≠ 0 ∨ field w 0 8 &&& reservedArg (field w 12 4) ≠ 0 := by
  rw [decodeRequest_error_iff, request_row_iff (op := 1) (reserved := 0xF0) (by decide) (by decide),
    request_row_iff (op := 2) (reserved := 0) (by decide) (by decide),
    request_row_iff (op := 3) (reserved := 0) (by decide) (by decide),
    request_word_iff (op := 4) (by decide), request_word_iff (op := 5) (by decide),
    request_row_iff (op := 6) (reserved := 0xFC) (by decide) (by decide),
    request_row_iff (op := 7) (reserved := 0xF8) (by decide) (by decide),
    request_row_iff (op := 8) (reserved := 0xF3) (by decide) (by decide),
    request_row_iff (op := 9) (reserved := 0xE3) (by decide) (by decide),
    request_row_iff (op := 10) (reserved := 0xB0) (by decide) (by decide)]
  generalize field w 12 4 = op
  generalize field w 8 4 = res
  generalize field w 0 8 = arg
  obtain ⟨⟨n, hn⟩⟩ := op
  interval_cases n <;> simp [reservedArg, imp_iff_not_or]

/-! ### The family of a command byte -/

/-- Settles O5: the masks of R64's table against the highest bit, for each of the 256 bytes. -/
theorem familyByHighestBit : Obligations.FamilyByHighestBit := by
  unfold Obligations.FamilyByHighestBit
  decide

end Sys2Proof

namespace Sys2Proof.Machine

/-- Settles O3: `illegal_request_iff` in both directions, and the block's step at an illegal word (60_exceptions.md R125). -/
theorem illegalRequestWords : Obligations.IllegalRequestWords := by
  unfold Obligations.IllegalRequestWords
  intro w
  refine ⟨illegal_request_iff w, fun hw s hx hp hr => ?_⟩
  obtain ⟨e, he⟩ := (illegal_request_iff w).mpr hw
  exact ⟨rejectRequest s.takeReq, by rw [step_accept hx hp hr, acceptStep_illegal he], rfl, rfl, rfl⟩

/-! ### The assembler -/

/-- An assembly gives the word of the line's request where the operands are in range, and none elsewhere (R68). -/
theorem assemble_eq_ite {a : Asm} {w : ReqWord} {inRange : Prop} [Decidable inRange]
    (hwf : a.wellFormed = true ↔ inRange) (he : inRange → encode (asmInstr a) = .request w) :
    assemble a = if inRange then some w else none := by
  by_cases h : inRange
  · rw [assemble, if_pos (hwf.mpr h), if_pos h, he h]
  · rw [assemble, if_neg (mt hwf.mp h), if_neg h]

/-- A word that an assembly gives is the word of the line's request. -/
theorem encode_of_assemble {a : Asm} {w : ReqWord} (h : assemble a = some w) : encode (asmInstr a) = .request w := by
  unfold assemble at h
  split_ifs at h
  split at h
  next he => rw [he, Option.some.inj h]
  next => cases h

/-- A numeral in the range of its field is placed in the word as it is. -/
theorem setWidth_numeral {k n : Nat} (h : n < 2 ^ k) : (BitVec.ofNat k n).setWidth 16 = BitVec.ofNat 16 n :=
  BitVec.eq_of_toNat_eq (by simp [Nat.mod_eq_of_lt h])

/-- Settles O8: a line without operands by evaluation; a line with operands by its range, inside of which each numeral is its field. -/
theorem assemblerNeverMasks : Obligations.AssemblerNeverMasks := by
  unfold Obligations.AssemblerNeverMasks
  refine ⟨fun n => ?_, fun b => ?_, fun b => ?_, rfl, rfl, fun id s => ?_, fun d c b => ?_, fun sc rl => ?_,
    fun dl nl f => ?_, fun row col => ?_, fun c b => ?dispon, rfl, rfl, rfl, rfl, rfl, rfl, rfl, fun c => ?_,
    fun row col => ?_, fun a w h => ⟨asmInstr a, by rw [← encode_of_assemble h, decode_encode]⟩⟩
  case dispon =>
    refine assemble_eq_ite (by simp [Asm.wellFormed]) fun h => ?_
    simp (disch := omega) only [asmInstr, encode, setWidth_numeral]
    rfl
  all_goals
    refine assemble_eq_ite (by simp [Asm.wellFormed, and_assoc]) fun h => ?_
    simp (disch := omega) only [asmInstr, encode, setWidth_numeral]

/-- Settles O4: each word by evaluation. -/
theorem sampleWordsDecode : Obligations.SampleWordsDecode := by
  unfold Obligations.SampleWordsDecode
  decide

/-! ### The controller's instructions -/

/-- Settles O50: each instruction is one write of the registers. -/
theorem controllerRegistersWritten : Obligations.ControllerRegistersWritten := by
  unfold Obligations.ControllerRegistersWritten
  exact fun s => ⟨rfl, fun _ _ => rfl, fun _ _ _ => rfl, fun _ => rfl⟩

/-- Settles O51, by the two values of DL. -/
theorem controllerFunctionSet : Obligations.ControllerFunctionSet := by
  unfold Obligations.ControllerFunctionSet
  intro s dl nl f
  by_cases hdl : dl = 1
  · subst hdl
    rfl
  · simp only [exec, execHdFuncset, if_true, if_neg hdl]
    rfl

theorem exec_hdShift_display (rl : Bit) (s : State) : exec (.hdShift 1 rl 0) s = .next (shiftDisplay (rl = 1) s) := rfl

theorem exec_hdShift_cursor (rl : Bit) (s : State) : exec (.hdShift 0 rl 0) s = .next (moveCursor (rl = 1) s) := rfl

/-- A cursor move changes the address counter and the count of free values alone. -/
theorem moveCursor_frame (up : Bool) (s : State) :
    moveCursor up s =
      { s with
        frees := (moveCursor up s).frees
        lcd := { s.lcd with regs := { s.lcd.regs with ac := (moveCursor up s).lcd.regs.ac } } } := by
  have honly := moveCursor_only up s
  rwa [OnlyController, moveCursor_lcd] at honly

/-- Settles O52, by the direction. -/
theorem controllerShift : Obligations.ControllerShift := by
  unfold Obligations.ControllerShift
  intro s rl
  refine ⟨?_, fun hd ha => ?_, ?_⟩
  · rw [exec_hdShift_display]
    by_cases hrl : rl = 1
    · rw [if_pos hrl, decide_eq_true hrl]
      rfl
    · rw [if_neg hrl, decide_eq_false hrl]
      rfl
  · rw [exec_hdShift_cursor]
    by_cases hrl : rl = 1
    · rw [if_pos hrl] at ha
      rw [if_pos hrl, decide_eq_true hrl, moveCursor_up hd ha]
      rfl
    · rw [if_neg hrl] at ha
      rw [if_neg hrl, decide_eq_false hrl, moveCursor_down hd ha]
      rfl
  · exact ⟨_, exec_hdShift_cursor rl s, moveCursor_frame _ s⟩

/-- Settles O53: each of these instructions leaves the controller's state open (93 U6). -/
theorem controllerOutsideEncoder : Obligations.ControllerOutsideEncoder := by
  unfold Obligations.ControllerOutsideEncoder
  intro s i hi
  suffices h : exec i s = .next (anyController s) from ⟨_, h, rfl, rfl⟩
  rcases hi with ⟨a, rfl⟩ | rfl | ⟨sc, rl, dc, hdc, rfl⟩ | ⟨dl, nl, f, dc, hdc, rfl⟩
  · rfl
  · rfl
  · simp only [exec, execHdShift, if_neg hdc]
  · simp only [exec, execHdFuncset, if_neg hdc]

end Sys2Proof.Machine

/-! PROOFS of the family 41_framer.md: acceptance of a request (O19, O20, O21, O24 to O26), frames and their latches (O30 to O32, O45), one
write and what the controller makes of it (O15, O33, O34, O40, O41, O46, O47, O55), and requests as a whole (O35, O42 to O44). -/

namespace Sys2Proof.Machine

/-! ### The step runs the decoded instruction -/

theorem acceptStep_of_decode {w : ReqWord} {i : Instr} (hd : decode (.request w) = .ok i) (s : State) :
    acceptStep w s = exec i s := by
  simp only [acceptStep, hd]

/-- The controller's turn with a command byte (41_framer.md R90). -/
theorem step_command {b : Byte} {i : Instr} {s : State} (hx : s.lcd.rx = some ⟨b, 0⟩) (hd : decode (.command b) = .ok i) :
    step s = exec i s.takeRx := by
  simp [step, hx, controllerStep, hd]

/-- The idle block accepts a request by loading its frame (41_framer.md R81). -/
theorem exec_idle {i : Instr} {s : State} (hi : instrFamily i = none) (hp : s.phase = .idle) :
    exec i s = .next (accepted (requestFrame s.params i) s) := by
  rw [exec_eq_acceptFrame hi, acceptFrame_idle hp]

/-- Settles O19: the block's turn in `IDLE`, and the decoded word. -/
theorem stepRunsPresentedRequest : Obligations.StepRunsPresentedRequest := by
  unfold Obligations.StepRunsPresentedRequest
  intro s w i hx hp hr hd
  exact (step_accept hx hp hr).trans (acceptStep_of_decode hd _)

/-- Settles O20, by `step_command`. -/
theorem stepRunsDeliveredInstruction : Obligations.StepRunsDeliveredInstruction := by
  unfold Obligations.StepRunsDeliveredInstruction
  exact fun s b i hx hd => step_command hx hd

theorem decodeTableWord_some {nbits w : Nat} {i : Instr} (h : decodeTableWord nbits w = some i) :
    ∃ c, tableCode nbits w = some c ∧ decode c = .ok i := by
  unfold decodeTableWord at h
  split at h
  next => cases h
  next c hc =>
    split at h
    next j hj => exact ⟨c, hc, hj.trans (congrArg _ (Option.some.inj h))⟩
    next => cases h

/-- Settles O21, by the encoding of the word: a request is accepted by the idle block it is placed at, and a command byte is run by the
controller it is delivered to. -/
theorem tableWordRuns : Obligations.TableWordRuns := by
  unfold Obligations.TableWordRuns
  intro s nbits w i h
  obtain ⟨c, hc, hd⟩ := decodeTableWord_some h
  cases c with
  | request r =>
    have hplace : s.withFetchWord nbits w = { s with phase := .idle, req := some r, lcd := { s.lcd with rx := none } } := by
      simp only [State.withFetchWord, hc]
    rw [hplace]
    exact ⟨_, _, (step_accept rfl rfl rfl).trans (acceptStep_of_decode hd _), exec_idle (decodeRequest_family hd) rfl,
      rfl, rfl, rfl, rfl, rfl⟩
  | command b =>
    have hplace : s.withFetchWord nbits w = { s with lcd := { s.lcd with rx := some ⟨b, 0⟩ } } := by
      simp only [State.withFetchWord, hc]
    rw [hplace]
    obtain ⟨t, ht, -⟩ := exec_controller (decodeCommand_family hd) s.takeRx
    exact ⟨s.takeRx, t, step_command rfl hd, ht, rfl, rfl, rfl, rfl, rfl⟩

/-! ### The frames, byte by byte -/

theorem frameNibble_eq {p : Wiring} (h : p.wellFormed = true) (n : Nibble) :
    frameNibble p n = [n.setWidth 8 <<< 4 ||| 1#8 <<< p.bl.val ||| 1#8 <<< p.en.val, n.setWidth 8 <<< 4 ||| 1#8 <<< p.bl.val] := by
  simp only [frameNibble, placeData_eq h, blBits_eq h, lineMask]

/-- A byte frame is the strobes of its two nibbles, the high one first, under one set of control bits (41_framer.md R87). -/
theorem frameByte_eq_strobes (p : Wiring) (b : Byte) (rs : Bit) :
    frameByte p b rs =
      [placeData p (hiNibble b) ||| controlBits p rs ||| lineMask p.en, placeData p (hiNibble b) ||| controlBits p rs,
        placeData p (loNibble b) ||| controlBits p rs ||| lineMask p.en, placeData p (loNibble b) ||| controlBits p rs] := rfl

theorem controlBits_zero (p : Wiring) : controlBits p 0 = blBits p := by
  simp [controlBits]

/-- A nibble frame is one strobe with RS low (41_framer.md R88). -/
theorem frameNibble_eq_strobe (p : Wiring) (n : Nibble) :
    frameNibble p n = [placeData p n ||| controlBits p 0 ||| lineMask p.en, placeData p n ||| controlBits p 0] := by
  rw [controlBits_zero]
  rfl

/-- Settles O32: the data bits, BL and the masks of the lines have the spec's values, and without RS the control bits of a byte frame
are those of a nibble frame. -/
theorem framingFunctions : Obligations.FramingFunctions := by
  unfold Obligations.FramingFunctions
  intro p h
  refine ⟨fun b rs => ?_, frameNibble_eq h, fun b => ?_⟩
  · rw [frameByte_eq_strobes, placeData_hi h, placeData_lo h, controlBits, blBits_eq h]
    rfl
  · rw [frameByte_eq_strobes, controlBits_zero]
    rfl

/-! ### Acceptance of the framing requests -/

/-- Settles O24: `framingFunctions` gives the bytes of the frame that is loaded. -/
theorem nibAccepted : Obligations.NibAccepted := by
  unfold Obligations.NibAccepted
  intro n s hwf hp p d bl en
  have hframe := framingFunctions p (params_values hwf).1
  rw [exec_idle rfl hp, requestFrame, hframe.2.1 n]
  rfl

/-- Settles O25: `framingFunctions` with RS low. -/
theorem cmdAccepted : Obligations.CmdAccepted := by
  unfold Obligations.CmdAccepted
  intro b s hwf hp p hi lo bl en
  have hframe := framingFunctions p (params_values hwf).1
  have hc : bl ||| (if (0 : Bit) = 1 then 1#8 <<< p.rs.val else 0) = bl := BitVec.or_zero
  have hbytes : frameByte p b 0 = [hi ||| bl ||| en, hi ||| bl, lo ||| bl ||| en, lo ||| bl] := hc ▸ hframe.1 b 0
  rw [exec_idle rfl hp, requestFrame, hbytes]
  rfl

/-- Settles O26: `framingFunctions` with RS high. -/
theorem dataAccepted : Obligations.DataAccepted := by
  unfold Obligations.DataAccepted
  intro b s hwf hp p hi lo c en
  have hframe := framingFunctions p (params_values hwf).1
  rw [exec_idle rfl hp, requestFrame, hframe.1 b 1]
  rfl

/-! ### The lines and the data of a frame -/

theorem dataOf_placeData {p : Wiring} (h : p.wellFormed = true) (n : Nibble) : dataOf p (placeData p n) = n := by
  rw [dataOf_eq h, placeData_eq h]
  revert n
  decide

theorem dataOf_controlBits {p : Wiring} (h : p.wellFormed = true) (rs : Bit) : dataOf p (controlBits p rs) = 0 := by
  have hlevel : blBits p = lineMask p.bl := blBits_eq h
  have hzero : dataOf p 0 = 0 := by rw [dataOf_eq h]; rfl
  rw [controlBits, hlevel, dataOf_or h, dataOf_lineMask h]
  split
  · rw [dataOf_lineMask h]; rfl
  · rw [hzero]; rfl

/-- Both bytes of a strobe carry its nibble and the RS of its control bits. -/
theorem strobe_carries {p : Wiring} (h : p.wellFormed = true) (n : Nibble) (rs : Bit) :
    dataOf p (placeData p n ||| controlBits p rs) = n ∧ dataOf p (placeData p n ||| controlBits p rs ||| lineMask p.en) = n ∧
      lineOf (placeData p n ||| controlBits p rs) p.rs = rs ∧
      lineOf (placeData p n ||| controlBits p rs ||| lineMask p.en) p.rs = rs := by
  obtain ⟨-, hse, -⟩ := wiring_distinct h
  obtain ⟨hrs, -⟩ := lineOf_controlBits h rs
  simp [dataOf_or h, dataOf_placeData h, dataOf_controlBits h, dataOf_lineMask h, lineOf_or, lineOf_placeData h,
    lineOf_lineMask, hrs, hse.symm]

/-- Settles O30: the frames are well formed, and each strobe carries its nibble and RS. -/
theorem framesAreWellDriven : Obligations.FramesAreWellDriven := by
  unfold Obligations.FramesAreWellDriven
  intro p h
  have hnibble : hiNibble = dataOf p := funext fun v => (dataOf_eq h v).symm
  refine ⟨frameWf_frameNibble h, fun n => ?_, frameWf_frameByte h, fun b rs => ?_, fun b rs => ?_⟩
  · simp only [hnibble, frameNibble_eq_strobe, List.map_cons, List.map_nil, strobe_carries h]
  · simp only [hnibble, frameByte_eq_strobes, List.map_cons, List.map_nil, strobe_carries h]
  · simp only [frameByte_eq_strobes, List.map_cons, List.map_nil, strobe_carries h]

/-! ### What is latched of a frame -/

/-- What two bytes that strobe a nibble do to the lines (41_framer.md R91). -/
theorem strobes_lines {p : Wiring} {v w : Byte} (h : strobes p v w = true) :
    lineOf v p.en = 1 ∧ lineOf w p.en = 0 ∧ dataOf p v = dataOf p w ∧ lineOf v p.rs = lineOf w p.rs := by
  simp only [strobes, Bool.and_eq_true, decide_eq_true_eq] at h
  tauto

/-- A byte with EN high latches nothing. -/
theorem latchOf_enable {p : Wiring} {new : Byte} (h : lineOf new p.en = 1) (d : Draw) (old : Byte) :
    latchOf p d old new = none := by
  simp [latchOf, h]

/-- The second byte of a strobe latches its nibble and RS, whatever is drawn (41_framer.md R89). -/
theorem latchOf_strobe {p : Wiring} {v w : Byte} (h : strobes p v w = true) (d : Draw) :
    latchOf p d v w = some (dataOf p w, lineOf w p.rs) := by
  obtain ⟨hv, hw, hdata, hrs⟩ := strobes_lines h
  simp [latchOf, hv, hw, hdata, hrs]

/-- What is latched of the bytes `seq` from the expander at `e`, with a draw for each change of the expander (41_framer.md R89). -/
def latches (p : Wiring) (draw : Byte × Byte → Draw) (e : Byte) (seq : List Byte) : List (Nibble × Bit) :=
  (List.zip (e :: seq) seq).filterMap fun x => latchOf p (draw x) x.1 x.2

/-- A strobe is latched once, from whatever the expander held. -/
theorem latches_strobe {p : Wiring} {v w : Byte} (h : strobes p v w = true) (draw : Byte × Byte → Draw) (e : Byte)
    (rest : List Byte) :
    latches p draw e (v :: w :: rest) = (dataOf p w, lineOf w p.rs) :: latches p draw w rest := by
  simp [latches, latchOf_enable (strobes_lines h).1, latchOf_strobe h]

theorem latches_nil (p : Wiring) (draw : Byte × Byte → Draw) (e : Byte) : latches p draw e [] = [] := rfl

/-- Settles O31: each strobe of a frame is latched once, with the nibble and the RS it carries. -/
theorem frameLatches : Obligations.FrameLatches := by
  unfold Obligations.FrameLatches
  intro p e draw h
  refine ⟨fun n => ?_, fun b rs => ?_⟩
  · rw [frameNibble_eq_strobe]
    refine (latches_strobe (strobes_nibble h n 0) draw e []).trans ?_
    simp only [latches_nil, strobe_carries h]
  · rw [frameByte_eq_strobes]
    refine (latches_strobe (strobes_nibble h (hiNibble b) rs) draw e _).trans ?_
    simp only [latches_strobe (strobes_nibble h (loNibble b) rs), latches_nil, strobe_carries h]

/-- A well-formed frame of `2 * m` bytes is latched `m` times (41_framer.md R92). -/
theorem latches_frameWf {p : Wiring} {seq : List Byte} (h : frameWf p seq = true) (draw : Byte × Byte → Draw) (e : Byte) :
    2 * (latches p draw e seq).length = seq.length := by
  unfold frameWf at h
  split at h
  next a b => rw [latches_strobe h, latches_nil]; rfl
  next a b c d =>
    simp only [Bool.and_eq_true] at h
    obtain ⟨⟨hab, hcd⟩, -⟩ := h
    rw [latches_strobe hab, latches_strobe hcd, latches_nil]
    rfl
  next => cases h

/-- Settles O45: `latchOf` asks for a falling EN, and each choice of the draw is the old or the new value. -/
theorem latchOnFallingEnable : Obligations.LatchOnFallingEnable := by
  unfold Obligations.LatchOnFallingEnable
  intro p d old new h
  unfold latchOf
  simp only [dataOf_eq h]
  split
  next hfall =>
    refine ⟨by simp [hfall], fun n rs heq => ?_⟩
    cases heq
    exact ⟨by cases d.newNibble <;> simp, by cases d.newRs <;> simp⟩
  next hno => exact ⟨by simpa using fun hold hnew => hno ⟨hnew, hold⟩, nofun⟩

/-! ### The controller at the expander -/

theorem drive_of_no_latch {d : Draw} {v : Byte} {s : State} (h : latchOf s.params.wiring d s.exp v = none) :
    drive d v s = { s with exp := v } := by
  simp only [drive, h]

theorem drive_of_latch {d : Draw} {v : Byte} {s : State} {n : Nibble} {rs : Bit}
    (h : latchOf s.params.wiring d s.exp v = some (n, rs)) : drive d v s = latch n rs { s with exp := v } := by
  simp only [drive, h]

/-- Settles O46, by whether a nibble is latched. -/
theorem driveLatchesOrHolds : Obligations.DriveLatchesOrHolds := by
  unfold Obligations.DriveLatchesOrHolds
  exact fun d v s => ⟨drive_of_no_latch, fun n rs => drive_of_latch⟩

/-- In `BIT4` a high nibble is recorded (41_framer.md R90). -/
theorem latch_hi {s : State} (hm : s.lcd.mode = .bit4) (hh : s.lcd.half = .hi) (n : Nibble) (rs : Bit) :
    latch n rs s = setHalf (.lo n rs) s := by
  simp only [latch, if_pos hm, hh]
  rfl

/-- In `BIT4` a low nibble with the RS of the high one delivers the byte of the two (41_framer.md R90). -/
theorem latch_lo {s : State} {n0 : Nibble} {rs : Bit} (hm : s.lcd.mode = .bit4) (hh : s.lcd.half = .lo n0 rs) (n : Nibble) :
    latch n rs s =
      { s with lcd := { s.lcd with
        half := .hi
        rx := some ⟨n0 ++ n, rs⟩
        received := s.lcd.received ++ [if rs = 0 then .instruction (n0 ++ n) else .data (n0 ++ n)] } } := by
  simp only [latch, if_pos hm, hh, deliver, if_true]
  rcases BitVec.eq_zero_or_eq_one rs with rfl | rfl <;> rfl

/-- Any other latch leaves the controller's state open (93 U5, U7; log 10, log 11). -/
theorem latch_open {s : State} {rs : Bit} (h : s.lcd.mode ≠ .bit4 ∨ ∃ n0 rs0, s.lcd.half = .lo n0 rs0 ∧ rs0 ≠ rs) (n : Nibble) :
    latch n rs s = anyController (receive .unspecified (setHalf (halfAfter s.lcd.half n rs) s)) := by
  by_cases hm : s.lcd.mode = .bit4
  · obtain ⟨n0, rs0, hh, hne⟩ := h.resolve_left (not_not_intro hm)
    simp only [latch, hm, hh, if_true, deliver, if_neg hne]
  · simp only [latch, if_neg hm]

/-- Settles O47: a high nibble, a low one of the same RS, and any other latch. -/
theorem nibblesPairHighFirst : Obligations.NibblesPairHighFirst := by
  unfold Obligations.NibblesPairHighFirst
  intro s n rs
  refine ⟨fun hm hh => latch_hi hm hh n rs, fun hm n0 hh => latch_lo hm hh n, fun h => ?_⟩
  rw [latch_open h]
  exact ⟨rfl, rfl, rfl, rfl, rfl, rfl⟩

/-! ### A byte delivered to the controller -/

/-- The controller's turn (41_framer.md R90). -/
theorem step_deliver {d : Delivered} {s : State} (hx : s.lcd.rx = some d) : step s = controllerStep d s.takeRx := by
  simp only [step, hx]

/-- The byte 0x00 as an instruction, and data outside DDRAM, leave the controller's state open (93 U6; log 11, log 21). -/
theorem controllerStep_open {d : Delivered} {s : State} (h : d = ⟨0x00, 0⟩ ∨ d.rs = 1 ∧ s.lcd.regs.acDdram = 0) :
    controllerStep d s = .next (anyController s) := by
  rcases h with rfl | ⟨hrs, hac⟩
  · rfl
  · have hout : ¬ s.lcd.regs.acDdram = 1 := by simp [hac]
    rw [controllerStep, if_pos hrs, takeData, if_neg hout]

/-- Settles O55: what every step of the controller keeps of its interface, and the two bytes without a meaning. -/
theorem deliveredByteIsTaken : Obligations.DeliveredByteIsTaken := by
  unfold Obligations.DeliveredByteIsTaken
  intro s d hx
  obtain ⟨t, ht, honly⟩ := controllerStep_next d s.takeRx
  have hkeeps := controllerStep_keeps ht
  refine ⟨t, (step_deliver hx).trans ht, ?_, hkeeps.rx, hkeeps.half, hkeeps.stage, hkeeps.received, fun hopen => ?_⟩
  · rw [OnlyController, honly]
    rfl
  · rw [controllerStep_open (s := s.takeRx) hopen] at ht
    cases ht
    exact ⟨rfl, rfl⟩

/-! ### One write of the block -/

@[simp] theorem emitWith_req (d : Draw) (v : Byte) (s : State) : (emitWith d v s).req = s.req := by rw [emitWith_eq]

@[simp] theorem emitWith_todo (d : Draw) (v : Byte) (s : State) : (emitWith d v s).todo = s.todo := by rw [emitWith_eq]

@[simp] theorem emitWith_task (d : Draw) (v : Byte) (s : State) : (emitWith d v s).task = s.task := by rw [emitWith_eq]

@[simp] theorem emitWith_report (d : Draw) (v : Byte) (s : State) : (emitWith d v s).report = s.report := by
  rw [emitWith_eq]

/-- Settles O15: the busy block's step is one write, and every other step keeps `TRACE`. -/
theorem stepAddsAtMostOneWrite : Obligations.StepAddsAtMostOneWrite := by
  unfold Obligations.StepAddsAtMostOneWrite
  intro s t h
  rcases step_writes_or_keepsBus h with ⟨hx, hp, v, -, rfl⟩ | ⟨hturn, hk⟩
  · exact .inl ⟨hp, hx, v, (answerAt s 0).result, by simp⟩
  · exact .inr ⟨hturn.symm, hk.trace⟩

/-- The byte of the next write is `OBUF[K]` (41_framer.md R82). -/
theorem nextByte_eq {s : State} (h : s.k.toNat < 4) (hk : s.k < s.nw) : nextByte s = some s.obuf[s.k.toNat] := by
  simp [nextByte, hk, h]

/-- Settles O33: the step is `emitWith` of `OBUF[K]`, read field by field in its three outcomes. -/
theorem emissionIsOneWrite : Obligations.EmissionIsOneWrite := by
  unfold Obligations.EmissionIsOneWrite
  intro s h hx hp hq hk v r
  refine ⟨_, step_emit hx hp hq (nextByte_eq h hk), by simp [v], by simp [readOut, v], by simp [v, r], fun hr => ?_,
    fun hr hlast => ?_, fun hr hmore => ?_, by simp, by simp, by simp, by simp, by simp, by simp, by simp, by simp⟩
  all_goals replace hr : (answerAt s 0).result = _ := hr
  · simp [hr]
  · simp only [emitWith_status, emitWith_phase, takeAnswer_k, takeAnswer_nw, hr, hlast]
    simp
  · simp only [emitWith_status, emitWith_phase, emitWith_k, takeAnswer_k, takeAnswer_nw, takeAnswer_status, takeAnswer_phase,
      hr, hmore]
    simp [hp]

/-! ### What one write does to the controller -/

/-- Two states with the same controller. -/
structure SameController (s t : State) : Prop where
  lcd : t.lcd = s.lcd
  frees : t.frees = s.frees

theorem takeAnswer_sameController (s : State) : SameController s (takeAnswer s) := ⟨takeAnswer_lcd s, takeAnswer_frees s⟩

/-- A latch depends on the controller alone. -/
theorem latch_sameController {s t : State} (h : SameController s t) (n : Nibble) (rs : Bit) :
    SameController (latch n rs s) (latch n rs t) := by
  obtain ⟨hl, hf⟩ := h
  unfold latch deliver
  simp only [hl]
  split
  · split
    · exact ⟨by simp [hl], hf⟩
    · split
      · exact ⟨by simp [hl], hf⟩
      · exact ⟨by simp [anyController, hl, hf], by simp [hf]⟩
  · exact ⟨by simp [anyController, hl, hf], by simp [hf]⟩

/-- What a byte on the expander does to the controller is a matter of the wiring, the expander and the controller. -/
theorem drive_sameController {s t : State} (hp : t.params = s.params) (he : t.exp = s.exp) (h : SameController s t) (d : Draw)
    (v : Byte) : SameController (drive d v s) (drive d v t) := by
  have hlatch : latchOf t.params.wiring d t.exp v = latchOf s.params.wiring d s.exp v := by rw [hp, he]
  have hdriven : SameController { s with exp := v } { t with exp := v } := ⟨h.lcd, h.frees⟩
  cases hs : latchOf s.params.wiring d s.exp v with
  | none => rwa [drive_of_no_latch hs, drive_of_no_latch (hlatch.trans hs)]
  | some x =>
    rw [drive_of_latch hs, drive_of_latch (hlatch.trans hs)]
    exact latch_sameController hdriven x.1 x.2

theorem drive_takeAnswer (d : Draw) (v : Byte) (s : State) : SameController (drive d v s) (drive d v (takeAnswer s)) :=
  drive_sameController (takeAnswer_params s) (takeAnswer_exp s) (takeAnswer_sameController s) d v

theorem drive_block (d : Draw) (v : Byte) (s : State) : (drive d v s).params = s.params ∧ (drive d v s).nw = s.nw := by
  rw [drive_eq]
  exact ⟨rfl, rfl⟩

/-- The state after the byte `v` has been driven onto the expander, where it reaches it with the answer `d` (10_state.md R28;
60_exceptions.md R124). -/
def driven (d : Draw) (v : Byte) (s : State) : State := if d.result = .ok ∨ d.took = true then drive d v s else s

theorem driven_ok {d : Draw} (hr : d.result = .ok) (v : Byte) (s : State) : driven d v s = drive d v s := if_pos (.inl hr)

theorem driven_exp (d : Draw) (v : Byte) (s : State) : (driven d v s).exp = if reaches d then v else s.exp := by
  simp only [driven, reaches, Bool.or_eq_true, decide_eq_true_eq]
  split
  · rw [drive_eq]
  · rfl

theorem driven_takeAnswer (d : Draw) (v : Byte) (s : State) : SameController (driven d v s) (driven d v (takeAnswer s)) := by
  unfold driven
  split
  · exact drive_takeAnswer d v s
  · exact takeAnswer_sameController s

/-- Presenting a byte to the transport does nothing to the controller but to drive it. -/
theorem transmit_driven (d : Draw) (v : Byte) (s : State) : SameController (driven d v s) (transmit d v s) := by
  have hreach : (reaches d = true) = (d.result = .ok ∨ d.took = true) := by simp [reaches]
  unfold driven transmit
  simp only [hreach]
  split
  · exact drive_sameController (s := s) (t := present d v s) rfl rfl ⟨rfl, rfl⟩ d v
  · exact ⟨rfl, rfl⟩

theorem transmit_block (d : Draw) (v : Byte) (s : State) :
    (transmit d v s).params = s.params ∧ (transmit d v s).nw = s.nw ∧ (transmit d v s).k = s.k := by
  rw [transmit_eq]
  exact ⟨rfl, rfl, rfl⟩

theorem completeNibble_lcd_congr {s t : State} (h : t.lcd = s.lcd) (n : Nibble) :
    (completeNibble n t).lcd = (completeNibble n s).lcd := by
  unfold completeNibble
  rw [h]
  split <;> rfl

/-- The end of a nibble frame moves the mandatory sequence (70_reset_and_hazards.md R145). -/
theorem completeFrame_nibble {s : State} (h : s.nw = 2) (v : Byte) :
    completeFrame v s = completeNibble (dataOf s.params.wiring v) s := if_pos h

/-- The end of a byte frame breaks the mandatory sequence (log 12). -/
theorem completeFrame_byte {s : State} (h : s.nw ≠ 2) (v : Byte) :
    completeFrame v s = { s with lcd := { s.lcd with stage := .start } } := if_neg h

theorem completeFrame_lcd_congr {s t : State} (hp : t.params = s.params) (hn : t.nw = s.nw) (hl : t.lcd = s.lcd) (v : Byte) :
    (completeFrame v t).lcd = (completeFrame v s).lcd := by
  by_cases h : s.nw = 2
  · rw [completeFrame_nibble h, completeFrame_nibble (hn.trans h), hp, completeNibble_lcd_congr hl]
  · rw [completeFrame_byte h, completeFrame_byte (hn ▸ h), hl]

theorem completeFrame_frees (v : Byte) (s : State) : (completeFrame v s).frees = s.frees := by
  unfold completeFrame completeNibble
  split
  · split <;> rfl
  · rfl

/-- A failing write leaves of the controller what its byte does to it, with `LCD.half` not known and the mandatory sequence broken
(70_reset_and_hazards.md R145, R150). -/
theorem emitWith_fail_lcd {d : Draw} (hr : d.result = .fail) (v : Byte) (s : State) :
    (emitWith d v s).lcd = { (driven d v s).lcd with halfKnown := false, stage := .start } := by
  simp only [emitWith, hr, endRequest_lcd, spoil_lcd, (transmit_driven d v s).lcd]

/-- A successful write leaves of the controller what its byte does to it, and the last one ends the frame there (log 12). -/
theorem emitWith_ok_lcd {d : Draw} (hr : d.result = .ok) (v : Byte) (s : State) :
    (emitWith d v s).lcd = if s.k + 1 = s.nw then (completeFrame v (drive d v s)).lcd else (drive d v s).lcd := by
  obtain ⟨hparams, hnw, hk⟩ := transmit_block d v s
  obtain ⟨hparams', hnw'⟩ := drive_block d v s
  have hlcd : (transmit d v s).lcd = (drive d v s).lcd := driven_ok hr v s ▸ (transmit_driven d v s).lcd
  simp only [emitWith, hr, hk, hnw]
  split
  · rw [endRequest_lcd]
    refine completeFrame_lcd_congr ?_ ?_ ?_ v
    exacts [hparams.trans hparams'.symm, hnw'.symm, hlcd]
  · exact hlcd

/-- The count of free values moves as the byte on the expander moves it. -/
theorem emitWith_frees (d : Draw) (v : Byte) (s : State) : (emitWith d v s).frees = (driven d v s).frees := by
  rw [← (transmit_driven d v s).frees]
  unfold emitWith
  simp only
  split
  · rfl
  · split
    · exact completeFrame_frees v _
    · rfl

/-- The end of a frame in terms of the controller as the last byte leaves it, the answer taken or not. -/
theorem completeFrame_drive_takeAnswer (d : Draw) (v : Byte) (s : State) :
    (completeFrame v (drive d v (takeAnswer s))).lcd = (completeFrame v (drive d v s)).lcd := by
  obtain ⟨hp, hn⟩ := drive_block d v s
  obtain ⟨hp', hn'⟩ := drive_block d v (takeAnswer s)
  exact completeFrame_lcd_congr (by rw [hp, hp', takeAnswer_params]) (by rw [hn, hn', takeAnswer_nw])
    (drive_takeAnswer d v s).lcd v

/-- Settles O34: the step is `emitWith`, by its three outcomes; taking the answer is nothing to the controller. -/
theorem emissionDrivesController : Obligations.EmissionDrivesController := by
  unfold Obligations.EmissionDrivesController
  intro s h hx hp hq hk v d r
  have hr_ok (hr : d.result = .ok) : r = drive d v s := driven_ok hr v s
  obtain ⟨hparams, hnw'⟩ := drive_block d v s
  refine ⟨_, step_emit hx hp hq (nextByte_eq h hk), ?_, ?_, fun hr => ?_, fun hr hmore => ?_, fun hr hlast hnw => ?_,
    fun hr hlast hnw => ?_⟩
  · rw [emitWith_exp, takeAnswer_exp]
    exact (driven_exp d v s).symm
  · rw [emitWith_frees]
    exact (driven_takeAnswer d v s).frees
  · rw [emitWith_fail_lcd hr, (driven_takeAnswer d v s).lcd]
    rfl
  all_goals rw [emitWith_ok_lcd hr, hr_ok hr, takeAnswer_k, takeAnswer_nw]
  · rw [if_neg hmore, (drive_takeAnswer d v s).lcd]
  · rw [if_pos hlast, completeFrame_drive_takeAnswer, completeFrame_byte (by rwa [hnw'])]
  · rw [if_pos hlast, completeFrame_drive_takeAnswer, completeFrame_nibble (by rwa [hnw']), hparams]

/-! ### The next write of a well-formed frame -/

/-- The bytes of a well-formed frame raise EN at even places, and at odd ones end the strobe of the byte before (41_framer.md R91). -/
theorem frameWf_getElem? {p : Wiring} {seq : List Byte} {i : Nat} {v : Byte} (h : frameWf p seq = true) (hv : seq[i]? = some v) :
    (i % 2 = 0 ∧ lineOf v p.en = 1) ∨ (i % 2 = 1 ∧ ∃ u, seq[i - 1]? = some u ∧ strobes p u v = true) := by
  unfold frameWf at h
  split at h
  next a b =>
    match i, hv with
    | 0, rfl => exact .inl ⟨rfl, (strobes_lines h).1⟩
    | 1, rfl => exact .inr ⟨rfl, a, rfl, h⟩
  next a b c d =>
    simp only [Bool.and_eq_true] at h
    obtain ⟨⟨hab, hcd⟩, -⟩ := h
    match i, hv with
    | 0, rfl => exact .inl ⟨rfl, (strobes_lines hab).1⟩
    | 1, rfl => exact .inr ⟨rfl, a, rfl, hab⟩
    | 2, rfl => exact .inl ⟨rfl, (strobes_lines hcd).1⟩
    | 3, rfl => exact .inr ⟨rfl, c, rfl, hcd⟩
  next => cases h

theorem activeFrame_getElem? {s : State} {i : Nat} (h : i < s.nw.toNat) : (activeFrame s)[i]? = s.obuf[i]? := by
  simp [activeFrame, h]

/-- The next write raises EN, or it ends the strobe of the byte the expander holds (41_framer.md R91). -/
theorem Inv.nextByte_strobe {s : State} {v : Byte} (hs : Inv s) (hp : s.phase = .busy) (hv : nextByte s = some v) :
    (s.k.toNat % 2 = 0 ∧ lineOf v s.params.wiring.en = 1) ∨
      (s.k.toNat % 2 = 1 ∧ strobes s.params.wiring s.exp v = true) := by
  obtain ⟨hk, hobuf, -⟩ := nextByte_some hv
  replace hk : s.k.toNat < s.nw.toNat := hk
  rcases frameWf_getElem? (hs.frame hp) ((activeFrame_getElem? hk).trans hobuf) with heven | ⟨hodd, u, hu, hstrobe⟩
  · exact .inl heven
  · have hk4 : s.k.toNat ≤ 4 := hs.stepIndex
    have hk1 : (s.k - 1).toNat = s.k.toNat - 1 := by bv_omega
    have hexp := hs.strobe hp (by bv_omega)
    rw [hk1, ← activeFrame_getElem? (by omega), hu] at hexp
    exact .inr ⟨hodd, Option.some.inj hexp ▸ hstrobe⟩

/-- Settles O40: a byte that raises EN latches nothing, and a strobe is latched whatever is drawn. -/
theorem noWriteDisturbsLatch : Obligations.NoWriteDisturbsLatch := by
  unfold Obligations.NoWriteDisturbsLatch
  intro s v d d' hs hp hv
  rcases hs.nextByte_strobe hp hv with ⟨-, hrise⟩ | ⟨-, hstrobe⟩
  · rw [latchOf_enable hrise, latchOf_enable hrise]
  · rw [latchOf_strobe hstrobe, latchOf_strobe hstrobe]

/-- Settles O41: the last byte of a frame of two or four is at an odd place, so it ends a strobe. -/
theorem completedFrameLowersEnable : Obligations.CompletedFrameLowersEnable := by
  unfold Obligations.CompletedFrameLowersEnable
  intro s t hs hx hp hr h hidle
  rcases step_writes_or_keepsBus h with ⟨-, -, v, hv, rfl⟩ | ⟨hx' | hp', -⟩
  · have hlast : s.k + 1 = s.nw := by simpa [hr, hp] using hidle
    obtain ⟨hnw, -⟩ := hs.counts hp
    have hk4 : s.k.toNat ≤ 4 := hs.stepIndex
    rcases hs.nextByte_strobe hp hv with ⟨heven, -⟩ | ⟨-, hstrobe⟩
    · bv_omega
    · obtain ⟨-, hlow, -⟩ := strobes_lines hstrobe
      rw [emitWith_status, emitWith_exp, emitWith_params, takeAnswer_k, takeAnswer_nw, if_pos hlast]
      simp [hr, reaches, hlow]
  · exact absurd hx hx'
  · simp [hp] at hp'

/-! ### A request as a whole -/

/-- How `run(seq)` can end (41_framer.md R83): all bytes are written, or the first failing one is the last. -/
theorem runFrame_cases (a : BusAddr) (ans : Nat → Draw) (seq : List Byte) :
    runFrame a ans seq = (statusOk, seq.map fun v => ⟨a, v, .ok⟩) ∨
      ∃ sent v rest, seq = sent ++ v :: rest ∧
        runFrame a ans seq = (statusTransportFailure, sent.map (fun v => ⟨a, v, .ok⟩) ++ [⟨a, v, .fail⟩]) := by
  induction seq generalizing ans with
  | nil => exact .inl rfl
  | cons v rest ih =>
    cases hr : (ans 0).result with
    | fail => exact .inr ⟨[], v, rest, rfl, by simp [runFrame, hr]⟩
    | ok =>
      rw [runFrame_ok hr]
      rcases ih fun n => ans (n + 1) with h | ⟨sent, w, rest', rfl, h⟩
      · exact .inl (by rw [h]; rfl)
      · exact .inr ⟨v :: sent, w, rest', rfl, by rw [h]; rfl⟩

theorem entries_bytes (a : BusAddr) (r : BusResult) (seq : List Byte) :
    (seq.map fun v => (⟨a, v, r⟩ : TraceEntry)).map (·.byte) = seq := by
  simp [Function.comp_def]

/-- Settles O43, by `runFrame_cases`. -/
theorem writeCounts : Obligations.WriteCounts := by
  unfold Obligations.WriteCounts
  intro a ans seq _ r
  have hr : r = runFrame a ans seq := rfl
  rcases runFrame_cases a ans seq with h | ⟨sent, v, rest, rfl, h⟩
  · rw [hr, h]
    exact ⟨fun _ => ⟨entries_bytes a .ok seq, by simp⟩, fun hne => absurd rfl hne⟩
  · rw [hr, h]
    refine ⟨nofun, fun _ => ⟨rfl, by simp, by simp, ?_, by simp⟩⟩
    rw [List.map_append, entries_bytes]
    simp [List.take_append]

/-- A frame just accepted is all unsent. -/
theorem unsent_of_k_zero {s : State} (h : s.k = 0) : unsent s = activeFrame s := by
  simp [unsent, h]

/-- Settles O42: an accepted frame is two or four unsent bytes, which `busy_runs` sends. -/
theorem requestRunsToItsStatus : Obligations.RequestRunsToItsStatus := by
  unfold Obligations.RequestRunsToItsStatus
  intro s hs hp hk hq r
  obtain ⟨hnw, -⟩ := hs.counts hp
  have hlen := frameWf_length (hs.frame hp)
  obtain ⟨v, rest, hseq⟩ := List.exists_cons_of_length_pos (l := activeFrame s) (by omega)
  obtain ⟨t, ⟨n, hrun, -⟩, hview, -⟩ := busy_runs hp hq (by bv_omega) ((unsent_of_k_zero hk).trans hseq)
  rw [← hseq] at hview
  exact ⟨n, t, hrun, congrArg HostView.phase hview, congrArg HostView.status hview, congrArg HostView.trace hview,
    congrArg HostView.task hview, congrArg HostView.todo hview, congrArg HostView.session hview, congrArg HostView.req hview⟩

theorem frameWf_requestFrame {i : Instr} {p : Params} (hi : instrFamily i = none) (h : p.wiring.wellFormed = true) :
    frameWf p.wiring (requestFrame p i) = true := by
  cases i with
  | nib n => exact frameWf_frameNibble h n
  | hdClear | hdHome | hdEntry | hdDispctl | hdShift | hdFuncset | hdSetCgram | hdSetDdram => cases hi
  | _ => exact frameWf_frameByte h _ _

/-- An accepted request runs to `IDLE` with the status and the writes of `run` on its frame (41_framer.md R83). -/
theorem accepted_runs {seq : List Byte} {s : State} (hlen : seq.length = 2 ∨ seq.length = 4) (hq : presenting s = false) :
    ∃ n t, Host.Core.run core n (accepted seq s) = .next t ∧ t.phase = .idle ∧
      t.status = (runFrame s.params.devAddr (answerAt s) seq).1 ∧
      t.trace = s.trace ++ (runFrame s.params.devAddr (answerAt s) seq).2 := by
  obtain ⟨v, rest, hseq⟩ := List.exists_cons_of_length_pos (l := seq) (by omega)
  have hnw : (accepted seq s).nw ≤ 4 := by rcases hlen with h | h <;> simp [h]
  obtain ⟨t, ⟨n, hrun, -⟩, hview, -⟩ := busy_runs (s := accepted seq s) rfl hq hnw ((unsent_accepted hlen s).trans hseq)
  rw [← hseq] at hview
  exact ⟨n, t, hrun, congrArg HostView.phase hview, congrArg HostView.status hview, congrArg HostView.trace hview⟩

/-- Settles O44: a legal request is accepted and runs as its frame does, by `runFrame_cases`; `latches_frameWf` counts the latches. -/
theorem requestWriteCounts : Obligations.RequestWriteCounts := by
  unfold Obligations.RequestWriteCounts
  intro s hwf hp hq hx
  refine ⟨fun w e he => ?_, ?_⟩
  · exact ⟨_, (step_accept (s := { s with req := some w }) hx hp rfl).trans (acceptStep_illegal he _), rfl, rfl⟩
  · intro i hi writes
    have hframe := frameWf_requestFrame hi (params_values hwf).1
    have hwrites : (requestFrame s.params i).length = writes := by
      cases i with
      | hdClear | hdHome | hdEntry | hdDispctl | hdShift | hdFuncset | hdSetCgram | hdSetDdram => cases hi
      | _ => rfl
    have hlen := frameWf_length hframe
    have hactive : activeFrame (accepted (requestFrame s.params i) s) = requestFrame s.params i := unsent_accepted hlen s
    obtain ⟨n, t, hrun, hidle, hstatus, htrace⟩ := accepted_runs hlen hq
    refine ⟨_, n, t, _, exec_idle hi hp, hrun, hidle, (congrArg List.length hactive).trans hwrites, htrace, ?_⟩
    rw [hactive, hstatus, ← hwrites]
    obtain ⟨hok, hfail⟩ := writeCounts s.params.devAddr (answerAt s) (requestFrame s.params i) (List.ne_nil_of_length_pos (by omega))
    refine ⟨hok, fun hne => ?_, fun d => latches_frameWf hframe _ s.exp⟩
    obtain ⟨hst, hone, hall, hbytes, -⟩ := hfail hne
    exact ⟨hst, hone, hall, hbytes⟩

/-! ### A frame of a controller that pairs nibbles -/

/-- The block is sending and `seq` is what it has still to send; nothing else moves before it but the controller. -/
structure Sending (s : State) (seq : List Byte) : Prop where
  phase : s.phase = .busy
  quiet : presenting s = false
  length : s.nw ≤ 4
  bytes : unsent s = seq

theorem Sending.accepted {seq : List Byte} {s : State} (hlen : seq.length = 2 ∨ seq.length = 4) (hq : presenting s = false) :
    Sending (accepted seq s) seq where
  phase := rfl
  quiet := hq
  length := by rcases hlen with h | h <;> simp [h]
  bytes := unsent_accepted hlen s

/-- The state after the write of `v` with the transport's next answer. -/
def sent (v : Byte) (s : State) : State := emitWith (answerAt s 0) v (takeAnswer s)

theorem answerAt_sent (v : Byte) (s : State) (n : Nat) : answerAt (sent v s) n = answerAt s (n + 1) := by
  rw [sent, answerAt_emitWith, answerAt_takeAnswer]

theorem sent_params (v : Byte) (s : State) : (sent v s).params = s.params := by simp [sent]

theorem sent_nw (v : Byte) (s : State) : (sent v s).nw = s.nw := by simp [sent]

theorem sent_exp {v : Byte} {s : State} (hok : (answerAt s 0).result = .ok) : (sent v s).exp = v := by simp [sent, hok, reaches]

section Sending

variable {v : Byte} {rest : List Byte} {s : State} (hs : Sending s (v :: rest))
include hs

/-- With no byte waiting for the controller the next step is the write. -/
theorem Sending.step (hx : s.lcd.rx = none) : step s = .next (sent v s) :=
  step_emit hx hs.phase hs.quiet (unsent_cons hs.length hs.bytes).1

theorem Sending.last_iff : s.k + 1 = s.nw ↔ rest = [] := (unsent_cons hs.length hs.bytes).2.2

variable (hok : (answerAt s 0).result = .ok)
include hok

theorem Sending.sent_more (hmore : rest ≠ []) : Sending (sent v s) rest where
  phase := by simpa [sent, hok, hs.phase] using mt hs.last_iff.mp hmore
  quiet := by
    rw [← hs.quiet]
    exact presenting_congr (by simp [sent]) (by simp [sent]) (by simp [sent])
  length := by rw [sent_nw]; exact hs.length
  bytes := by
    rw [← (unsent_cons hs.length hs.bytes).2.1]
    simp [sent, unsent, activeFrame, hok]

theorem Sending.sent_last (hlast : rest = []) : (sent v s).phase = .idle ∧ (sent v s).status = statusOk := by
  have hk := hs.last_iff.mpr hlast
  rw [sent, emitWith_phase, emitWith_status, takeAnswer_k, takeAnswer_nw, if_pos (.inr hk), if_pos hk]
  simp [hok]

/-- What the write leaves of the controller. -/
theorem Sending.sent_lcd :
    (sent v s).lcd =
      if rest = [] then (completeFrame v (drive (answerAt s 0) v s)).lcd else (drive (answerAt s 0) v s).lcd := by
  rw [sent, emitWith_ok_lcd hok, takeAnswer_k, takeAnswer_nw, completeFrame_drive_takeAnswer, (drive_takeAnswer _ v s).lcd]
  simp only [hs.last_iff]

end Sending

/-- A byte with EN high is held by the expander alone. -/
theorem drive_rise {v : Byte} {s : State} (h : lineOf v s.params.wiring.en = 1) (d : Draw) : drive d v s = { s with exp := v } :=
  drive_of_no_latch (latchOf_enable h d s.exp)

/-- The end of a strobe is latched with the nibble and the RS it carries, whatever is drawn. -/
theorem drive_strobe {w : Byte} {s : State} (h : strobes s.params.wiring s.exp w = true) (d : Draw) :
    drive d w s = latch (dataOf s.params.wiring w) (lineOf w s.params.wiring.rs) { s with exp := w } :=
  drive_of_latch (latchOf_strobe h d)

theorem latch_block (n : Nibble) (rs : Bit) (s : State) : (latch n rs s).params = s.params ∧ (latch n rs s).nw = s.nw := by
  rw [latch_only n rs s]
  exact ⟨rfl, rfl⟩

/-- What two writes answered `ok` that strobe a nibble with RS at `rs` lead to, `rest` being still to send: the controller has latched
the nibble once (41_framer.md R91), and where nothing is left the frame is at its end, `w` its last byte. -/
structure Strobed (n : Nibble) (rs : Bit) (w : Byte) (rest : List Byte) (s t : State) : Prop where
  run : Host.Core.run core 2 s = .next t
  params : t.params = s.params
  nw : t.nw = s.nw
  answers : ∀ j, answerAt t j = answerAt s (j + 2)
  more : rest ≠ [] → Sending t rest
  last : rest = [] → t.phase = .idle ∧ t.status = statusOk
  lcd : t.lcd = if rest = [] then (completeFrame w (latch n rs s)).lcd else (latch n rs s).lcd

theorem Sending.strobed {v w : Byte} {rest : List Byte} {s : State} (hs : Sending s (v :: w :: rest)) (hx : s.lcd.rx = none)
    (hvw : strobes s.params.wiring v w = true) (hok : ∀ j < 2, (answerAt s j).result = .ok) :
    ∃ t, Strobed (dataOf s.params.wiring w) (lineOf w s.params.wiring.rs) w rest s t := by
  have hok0 := hok 0 (by decide)
  have hok1 : (answerAt (sent v s) 0).result = .ok := by rw [answerAt_sent]; exact hok 1 (by decide)
  have hmore := hs.sent_more hok0 (List.cons_ne_nil w rest)
  have hparams := sent_params v s
  have hlcd : (sent v s).lcd = s.lcd := by
    rw [hs.sent_lcd hok0, if_neg (List.cons_ne_nil w rest), drive_rise (strobes_lines hvw).1]
  have hfrees : (sent v s).frees = s.frees := by
    rw [sent, emitWith_frees, (driven_takeAnswer _ v s).frees, driven_ok hok0, drive_rise (strobes_lines hvw).1]
  have hlatch : SameController (latch (dataOf s.params.wiring w) (lineOf w s.params.wiring.rs) s)
      (drive (answerAt (sent v s) 0) w (sent v s)) := by
    rw [drive_strobe (by rwa [hparams, sent_exp hok0]), hparams]
    refine latch_sameController ⟨?_, ?_⟩ _ _
    exacts [hlcd, hfrees]
  obtain ⟨hp, hn⟩ := latch_block (dataOf s.params.wiring w) (lineOf w s.params.wiring.rs) s
  obtain ⟨hp', hn'⟩ := drive_block (answerAt (sent v s) 0) w (sent v s)
  refine ⟨sent w (sent v s), run_trans (m := 1) (run_one (hs.step hx)) (run_one (hmore.step (hlcd ▸ hx))), ?_, ?_, ?_,
    hmore.sent_more hok1, hmore.sent_last hok1, ?_⟩
  · rw [sent_params, sent_params]
  · rw [sent_nw, sent_nw]
  · intro j
    rw [answerAt_sent, answerAt_sent]
  · rw [hmore.sent_lcd hok1, hlatch.lcd, completeFrame_lcd_congr (hp'.trans (hparams.trans hp.symm))
      (hn'.trans ((sent_nw v s).trans hn.symm)) hlatch.lcd]

/-- The strobe of a nibble with RS at `rs`, as the frames hold it. -/
theorem Sending.nibble {p : Wiring} {n : Nibble} {rs : Bit} {rest : List Byte} {s : State}
    (hs : Sending s
      ((placeData p n ||| controlBits p rs ||| lineMask p.en) :: (placeData p n ||| controlBits p rs) :: rest))
    (hp : s.params.wiring = p) (hwf : p.wellFormed = true) (hx : s.lcd.rx = none) (hok : ∀ j < 2, (answerAt s j).result = .ok) :
    ∃ t, Strobed n rs (placeData p n ||| controlBits p rs) rest s t := by
  subst hp
  obtain ⟨t, ht⟩ := hs.strobed hx (strobes_nibble hwf n rs) hok
  simp only [strobe_carries hwf] at ht
  exact ⟨t, ht⟩

theorem hiNibble_append_loNibble (b : Byte) : hiNibble b ++ loNibble b = b := by
  revert b
  decide

section Paired

variable {s : State} (hwf : s.params.wiring.wellFormed = true) (hq : presenting s = false) (hx : s.lcd.rx = none)
  (hm : s.lcd.mode = .bit4) (hh : s.lcd.half = .hi)
include hwf hq hx hm hh

/-- A byte frame answered `ok` delivers exactly its byte to a controller in `BIT4` that awaits a high nibble (41_framer.md R90). -/
theorem frameByte_delivers (hok : ∀ j < 4, (answerAt s j).result = .ok) (b : Byte) (rs : Bit) :
    ∃ t, Host.Core.run core 4 (accepted (frameByte s.params.wiring b rs) s) = .next t ∧ t.phase = .idle ∧
      t.status = statusOk ∧
      t.lcd = { s.lcd with
        rx := some ⟨b, rs⟩
        received := s.lcd.received ++ [if rs = 0 then .instruction b else .data b]
        stage := .start } := by
  have hsend := Sending.accepted (seq := frameByte s.params.wiring b rs) (.inr rfl) hq
  obtain ⟨t, ht⟩ := hsend.nibble rfl hwf hx fun j hj => hok j (by omega)
  have hlcd : t.lcd = { s.lcd with half := .lo (hiNibble b) rs } := by
    rw [ht.lcd, if_neg (List.cons_ne_nil _ _), latch_hi (s := accepted _ s) hm hh]
    rfl
  obtain ⟨u, hu⟩ := (ht.more (List.cons_ne_nil _ _)).nibble (congrArg Params.wiring ht.params) hwf (hlcd ▸ hx) fun j hj => by
    rw [ht.answers]
    exact hok (j + 2) (by omega)
  obtain ⟨hidle, hstatus⟩ := hu.last rfl
  have hnw : (latch (loNibble b) rs t).nw ≠ 2 := by
    rw [(latch_block _ _ _).2, ht.nw]
    exact (by decide : (4 : BitVec 3) ≠ 2)
  refine ⟨u, run_trans ht.run hu.run, hidle, hstatus, ?_⟩
  rw [hu.lcd, if_pos rfl, completeFrame_byte hnw, latch_lo (hlcd ▸ hm) (n0 := hiNibble b) (by rw [hlcd]), hlcd,
    hiNibble_append_loNibble]
  simp only [hh]

/-- A nibble frame answered `ok` leaves its nibble as the high one, where it does not complete the mandatory sequence. -/
theorem frameNibble_recorded (hok : ∀ j < 2, (answerAt s j).result = .ok) {n : Nibble} {st : Stage}
    (hst : stageAfter s.lcd.stage n = some st) :
    ∃ t, Host.Core.run core 2 (accepted (frameNibble s.params.wiring n) s) = .next t ∧ t.phase = .idle ∧
      t.status = statusOk ∧ t.lcd = { s.lcd with half := .lo n 0, stage := st } := by
  have hsend := Sending.accepted (seq := frameNibble s.params.wiring n) (.inl rfl) hq
  rw [frameNibble_eq_strobe] at hsend ⊢
  obtain ⟨t, ht⟩ := hsend.nibble rfl hwf hx hok
  obtain ⟨hidle, hstatus⟩ := ht.last rfl
  refine ⟨t, ht.run, hidle, hstatus, ?_⟩
  rw [ht.lcd, if_pos rfl, latch_hi (s := accepted _ s) hm hh, completeFrame_nibble rfl]
  simp only [completeNibble, setHalf_lcd, accepted_lcd, setHalf_params, accepted_params, strobe_carries hwf, hst]

end Paired

/-- The mandatory sequence is not complete before its fourth request (70_reset_and_hazards.md R145). -/
theorem stageAfter_some {st : Stage} {n : Nibble} (h : st ≠ .three ∨ n ≠ 2) : ∃ st', stageAfter st n = some st' := by
  cases st with
  | start | one | two =>
    simp only [stageAfter]
    split <;> exact ⟨_, rfl⟩
  | three =>
    have hn : n ≠ 2 := h.resolve_left (not_not_intro rfl)
    simp only [stageAfter, if_neg hn]
    split <;> exact ⟨_, rfl⟩

/-- Settles O35: a byte frame by `frameByte_delivers`, a nibble frame by `frameNibble_recorded`. -/
theorem frameReachesController : Obligations.FrameReachesController := by
  unfold Obligations.FrameReachesController
  intro s hwf hp hq hx hm hh _ hok
  have hwf' := (params_values hwf).1
  refine ⟨fun b => ?_, fun b => ?_, fun n hn => ?_⟩
  · exact ⟨_, _, exec_idle rfl hp, (frameByte_delivers hwf' hq hx hm hh hok b 0).choose_spec⟩
  · exact ⟨_, _, exec_idle rfl hp, (frameByte_delivers hwf' hq hx hm hh hok b 1).choose_spec⟩
  · obtain ⟨st, hst⟩ := stageAfter_some hn
    obtain ⟨t, hrun, hidle, hstatus, hlcd⟩ := frameNibble_recorded hwf' hq hx hm hh (fun j hj => hok j (by omega)) hst
    exact ⟨_, t, exec_idle rfl hp, hrun, hidle, hstatus, by rw [hlcd]⟩

end Sys2Proof.Machine

/-! PROOFS of the family 42_command_encoder.md: the bytes of the encoder (O6, O7), acceptance of the command requests (O27 to O29), clear in
the controller (O49), and the position check of the host (O56). -/

namespace Sys2Proof.Machine

/-! ### The bytes of the encoder -/

section EncoderBytes

variable {p : Params} (h : p.wellFormed = true)
include h

/-- The base values and the flag positions are those of R64's table. -/
theorem params_commands : p.commands = {} := by
  obtain ⟨-, -, -, -, -, hc⟩ := params_values h
  exact hc

theorem encClear_eq : encClear p = 0x01 := by
  rw [encClear, params_commands h]

theorem encHome_eq : encHome p = 0x02 := by
  rw [encHome, params_commands h]

theorem encEntry_eq (id sh : Bit) : encEntry p id sh = 0x04#8 ||| id.setWidth 8 <<< 1 ||| sh.setWidth 8 := by
  rw [encEntry, params_commands h]
  revert id sh
  decide

theorem encDispctl_eq (d c b : Bit) :
    encDispctl p d c b = 0x08#8 ||| d.setWidth 8 <<< 2 ||| c.setWidth 8 <<< 1 ||| b.setWidth 8 := by
  rw [encDispctl, params_commands h]
  revert d c b
  decide

theorem encShift_eq (sc rl : Bit) : encShift p sc rl = 0x10#8 ||| sc.setWidth 8 <<< 3 ||| rl.setWidth 8 <<< 2 := by
  rw [encShift, params_commands h]
  revert sc rl
  decide

theorem encFuncset_eq (dl nl f : Bit) :
    encFuncset p dl nl f = 0x20#8 ||| dl.setWidth 8 <<< 4 ||| nl.setWidth 8 <<< 3 ||| f.setWidth 8 <<< 2 := by
  rw [encFuncset, params_commands h]
  revert dl nl f
  decide

/-- A row's base is the row at bit 6, and no column reaches that far (20_memory.md R48). -/
theorem cellAddr_eq (row : Bit) (col : Nibble) : cellAddr p row col = row.setWidth 7 <<< 6 ||| col.setWidth 7 := by
  obtain ⟨-, -, -, h0, h1, -⟩ := params_values h
  rw [cellAddr, rowBase, h0, h1]
  revert row col
  decide

theorem cellAddr_setWidth (row : Bit) (col : Nibble) :
    (cellAddr p row col).setWidth 8 = row.setWidth 8 <<< 6 ||| col.setWidth 8 := by
  rw [cellAddr_eq h]
  revert row col
  decide

/-- `enc_ddram` is the base of its family with the address of the cell (42_command_encoder.md R100). -/
theorem encDdram_eq_cellAddr (row col : Byte) :
    encDdram p row col = 0x80#8 ||| (cellAddr p (row.setWidth 1) (col.setWidth 4)).setWidth 8 := by
  rw [encDdram, params_commands h]
  rfl

/-- `enc_ddram` of operands as wide as the fields of `SETDDRAM`. -/
theorem encDdram_eq (row : Bit) (col : Nibble) :
    encDdram p (row.setWidth 8) (col.setWidth 8) = 0x80#8 ||| row.setWidth 8 <<< 6 ||| col.setWidth 8 := by
  rw [encDdram_eq_cellAddr h, cellAddr_setWidth h, BitVec.or_assoc]
  simp

end EncoderBytes

/-- Narrowing to `n` bits and widening again keeps the lowest `n` bits. -/
theorem setWidth_setWidth_eq_and {m : Nat} (w : BitVec m) (n : Nat) :
    (w.setWidth n).setWidth m = w &&& (BitVec.allOnes n).setWidth m := by
  ext i hi
  simp [hi, Bool.and_comm]

/-- The mask of the lowest `n` bits leaves a value below `2 ^ n` alone. -/
theorem and_allOnes_eq_self {m n : Nat} {w : BitVec m} (h : w.toNat < 2 ^ n) : w &&& (BitVec.allOnes n).setWidth m = w := by
  rw [← setWidth_setWidth_eq_and]
  exact BitVec.eq_of_toNat_eq (by simp [Nat.mod_eq_of_lt h])

theorem decode_of_encode {i : Instr} {c : Code} (h : encode i = c) : decode c = .ok i := h ▸ decode_encode i

/-- Settles O6: each byte is the word of its controller instruction, whose don't-care bits add nothing. -/
theorem encoderBytesAreControllerInstructions : Obligations.EncoderBytesAreControllerInstructions := by
  unfold Obligations.EncoderBytesAreControllerInstructions
  intro p h
  refine ⟨decode_of_encode ?_, decode_of_encode ?_, fun id sh => decode_of_encode ?_, fun d c b => decode_of_encode ?_,
    fun sc rl => decode_of_encode ?_, fun dl nl f => decode_of_encode ?_, fun row col => decode_of_encode ?_⟩
  · rw [encClear_eq h]; rfl
  · rw [encHome_eq h]; rfl
  · rw [encEntry_eq h, encode]
  · rw [encDispctl_eq h, encode]
  · rw [encShift_eq h]
    exact congrArg Code.command BitVec.or_zero
  · rw [encFuncset_eq h]
    exact congrArg Code.command BitVec.or_zero
  · rw [encDdram_eq_cellAddr h]
    simp [encode]

/-- Settles O7: the cell's address holds the narrowed operands, and narrowing masks them. -/
theorem ddramAddressMasksItsOperands : Obligations.DdramAddressMasksItsOperands := by
  unfold Obligations.DdramAddressMasksItsOperands
  intro p row col h
  have hmask : encDdram p row col = 0x80#8 ||| (row &&& 1) <<< 6 ||| (col &&& 0xF) := by
    rw [encDdram_eq_cellAddr h, cellAddr_setWidth h, setWidth_setWidth_eq_and, setWidth_setWidth_eq_and, BitVec.or_assoc]
    rfl
  refine ⟨hmask, encDdram_eq_cellAddr h row col, fun hrow hcol => ?_⟩
  have hr : row &&& 1 = row := and_allOnes_eq_self (n := 1) (Nat.lt_succ_of_le hrow)
  have hc : col &&& 0xF = col := and_allOnes_eq_self (n := 4) (Nat.lt_succ_of_le hcol)
  rw [hmask, hr, hc]

/-! ### The command requests -/

/-- No two instructions have the same word (30_encoding.md R62). -/
theorem encode_injective : Function.Injective encode := fun i _ h =>
  Except.ok.inj ((decode_encode i).symm.trans (decode_of_encode h.symm))

/-- The frame of the accepted state is the frame that was loaded (41_framer.md R81). -/
theorem activeFrame_accepted {seq : List Byte} (h : seq.length = 2 ∨ seq.length = 4) (s : State) :
    activeFrame (accepted seq s) = seq :=
  (unsent_of_k_zero rfl).symm.trans (unsent_accepted h s)

/-- RS is held in all four bytes of a byte frame (41_framer.md R87). -/
theorem lineOf_rs_of_mem_frameByte {p : Wiring} (h : p.wellFormed = true) {b v : Byte} {rs : Bit} (hv : v ∈ frameByte p b rs) :
    lineOf v p.rs = rs := by
  obtain ⟨-, -, -, -, hrs⟩ := framesAreWellDriven p h
  have hmem := List.mem_map_of_mem (f := fun v => lineOf v p.rs) hv
  rw [hrs] at hmem
  simpa using hmem

/-- Settles O28: an encoder request is the framing of its byte by definition, and the frame holds RS. -/
theorem commandRequestIsRawCommand : Obligations.CommandRequestIsRawCommand := by
  unfold Obligations.CommandRequestIsRawCommand
  intro s
  refine ⟨rfl, rfl, fun _ _ => rfl, fun _ _ _ => rfl, fun _ _ => rfl, fun _ _ _ => rfl, fun _ _ => rfl,
    fun i b _ h => encode_injective h, fun hw hp b t ht v hv => ?_⟩
  obtain ⟨-, rfl⟩ := acceptFrame_cases ht
  rw [activeFrame_accepted (.inr rfl)] at hv
  exact lineOf_rs_of_mem_frameByte hw hv

/-- Settles O27: each request is the raw `CMD` of its byte, whose acceptance is `cmdAccepted`. -/
theorem commandRequestsAccepted : Obligations.CommandRequestsAccepted := by
  unfold Obligations.CommandRequestsAccepted
  intro s h hp p bl en sent
  have hsent {i : Instr} {b b' : Byte} (hraw : exec i s = exec (.cmd b) s) (hb : b = b') : exec i s = .next (sent b') := by
    rw [hraw, hb]
    exact cmdAccepted b' s h hp
  obtain ⟨hclear, hhome, hentry, hdispctl, hshift, hfuncset, hddram, -⟩ := commandRequestIsRawCommand s
  exact ⟨hsent hclear (encClear_eq h), hsent hhome (encHome_eq h), fun id sh => hsent (hentry id sh) (encEntry_eq h id sh),
    fun d c b => hsent (hdispctl d c b) (encDispctl_eq h d c b), fun sc rl => hsent (hshift sc rl) (encShift_eq h sc rl),
    fun dl nl f => hsent (hfuncset dl nl f) (encFuncset_eq h dl nl f),
    fun row col => hsent (hddram row col) (encDdram_eq h row col)⟩

/-! ### No two command requests send the same byte -/

/-- A byte frame carries both nibbles of its byte, so it determines the byte. -/
theorem frameByte_inj {p : Wiring} (h : p.wellFormed = true) {b b' : Byte} {rs rs' : Bit}
    (hf : frameByte p b rs = frameByte p b' rs') : b = b' := by
  obtain ⟨-, -, -, hnibbles, -⟩ := framesAreWellDriven p h
  have hn := congrArg (List.map hiNibble) hf
  rw [hnibbles, hnibbles] at hn
  simp only [List.cons.injEq] at hn
  obtain ⟨hhi, -, hlo, -⟩ := hn
  rw [← hiNibble_append_loNibble b, hhi, hlo, hiNibble_append_loNibble]

/-- The command request that makes the block send a controller instruction, whatever its don't-care bits are; none for an instruction of
no such family. The cell of an address is its bit 6 and its bits 3:0 (20_memory.md R48). -/
def requestSending : Instr → Option Instr
  | .hdClear => some .clear
  | .hdHome _ => some .home
  | .hdEntry id sh => some (.entry id sh)
  | .hdDispctl d c b => some (.dispctl d c b)
  | .hdShift sc rl _ => some (.shift sc rl)
  | .hdFuncset dl nl f _ => some (.funcset dl nl f)
  | .hdSetDdram a => some (.setddram (field a 6 1) (field a 0 4))
  | _ => none

theorem requestSending_cellAddr {p : Params} (h : p.wellFormed = true) (row : Bit) (col : Nibble) :
    requestSending (.hdSetDdram (cellAddr p row col)) = some (.setddram row col) := by
  rw [cellAddr_eq h]
  revert row col
  decide

/-- The seven requests of 42_command_encoder.md section 2: neither a controller instruction nor a framing request. -/
def CommandRequest (i : Instr) : Prop :=
  instrFamily i = none ∧ (∀ n, i ≠ .nib n) ∧ (∀ b, i ≠ .cmd b) ∧ ∀ b, i ≠ .data b

/-- In `IDLE` a command request loads the frame of one byte, and the instruction that the byte is for the controller tells which
request it was (R109, R110). -/
theorem CommandRequest.exec_idle {i : Instr} {s : State} (hi : CommandRequest i) (hp : s.phase = .idle)
    (h : s.params.wellFormed = true) :
    ∃ b c, exec i s = .next (accepted (frameByte s.params.wiring b 0) s) ∧ decode (.command b) = .ok c ∧
      requestSending c = some i := by
  obtain ⟨hreq, hnib, hcmd, hdata⟩ := hi
  obtain ⟨hclear, hhome, hentry, hdispctl, hshift, hfuncset, hddram⟩ := encoderBytesAreControllerInstructions s.params h
  have hexec := Machine.exec_idle hreq hp
  cases i with
  | clear => exact ⟨_, _, hexec, hclear, rfl⟩
  | home => exact ⟨_, _, hexec, hhome, rfl⟩
  | entry id sh => exact ⟨_, _, hexec, hentry id sh, rfl⟩
  | dispctl d c b => exact ⟨_, _, hexec, hdispctl d c b, rfl⟩
  | shift sc rl => exact ⟨_, _, hexec, hshift sc rl, rfl⟩
  | funcset dl nl f => exact ⟨_, _, hexec, hfuncset dl nl f, rfl⟩
  | setddram row col => exact ⟨_, _, hexec, hddram row col, requestSending_cellAddr h row col⟩
  | nib n => exact absurd rfl (hnib n)
  | cmd b => exact absurd rfl (hcmd b)
  | data b => exact absurd rfl (hdata b)
  | hdClear | hdHome | hdEntry | hdDispctl | hdShift | hdFuncset | hdSetCgram | hdSetDdram => cases hreq

/-- Settles O29: equal accepted states hold equal frames, so equal bytes, which are one controller instruction. -/
theorem commandRequestsSendDistinctBytes : Obligations.CommandRequestsSendDistinctBytes := by
  unfold Obligations.CommandRequestsSendDistinctBytes
  intro s i j hp h hi hj hsame
  obtain ⟨b, c, hexec, hdec, hsend⟩ := CommandRequest.exec_idle hi hp h
  obtain ⟨b', c', hexec', hdec', hsend'⟩ := CommandRequest.exec_idle hj hp h
  rw [hexec, hexec'] at hsame
  have hbytes := congrArg activeFrame (Host.Outcome.next.inj hsame)
  rw [activeFrame_accepted (.inr rfl), activeFrame_accepted (.inr rfl)] at hbytes
  obtain rfl : b = b' := frameByte_inj (params_values h).1 hbytes
  obtain rfl : c = c' := Except.ok.inj (hdec.symm.trans hdec')
  exact Option.some.inj (hsend.symm.trans hsend')

/-! ### Clear in the controller -/

/-- Settles O49: a cleared DDRAM reads as spaces. -/
theorem controllerClear : Obligations.ControllerClear := by
  unfold Obligations.ControllerClear
  exact fun s => ⟨ddramClear, ddramRead_clear, rfl⟩

/-! ### The position check of the host -/

/-- The cells are those of 2 rows and 16 columns (00_scope.md R11; R101). -/
theorem validPosition_iff {p : Params} (h : p.wellFormed = true) {row col : Nat} :
    validPosition p row col = true ↔ row ≤ 1 ∧ col ≤ 15 := by
  obtain ⟨-, hrows, hcols, -⟩ := params_values h
  simp only [validPosition, hrows, hcols, Bool.and_eq_true, decide_eq_true_eq]
  omega

/-- The word of a valid position (30_encoding.md R60). -/
theorem wordOf_setddram {row col : Nat} (hrow : row ≤ 1) (hcol : col ≤ 15) :
    wordOf (.setddram (BitVec.ofNat 1 row) (BitVec.ofNat 4 col)) =
      0xA000#16 ||| BitVec.ofNat 16 row <<< 6 ||| BitVec.ofNat 16 col := by
  simp (disch := omega) only [wordOf, encode, setWidth_numeral]

/-- The host begins `setPosition` and does the first of its acts. -/
theorem run_setPosition {s : State} {row col : Nat} {rest : List HostOp} {a : HostAct} {more : List HostAct}
    (hx : s.lcd.rx = none) (hp : s.phase = .idle) (hr : s.req = none) (ht : s.task = [])
    (hd : s.todo = .setPosition row col :: rest) (hacts : positionCall s.params row col = a :: more) :
    Host.Core.run core 2 s = .next (hostAct a { s with todo := rest, task := more }) := by
  have hbegin : step s = .next { s with todo := rest, task := a :: more } := by
    rw [step_beginOp hx hp hr ht hd, ← hacts]
    rfl
  exact run_trans (run_one hbegin) (run_one (step_hostAct hx hp hr rfl))

/-- Settles O56: the first act of a valid position is to present the word, and of any other to reject it. -/
theorem positionCheckedBeforeRequest : Obligations.PositionCheckedBeforeRequest := by
  unfold Obligations.PositionCheckedBeforeRequest
  intro s row col rest h hx hp hr ht hd
  by_cases hv : validPosition s.params row col = true
  · obtain ⟨hrow, hcol⟩ := (validPosition_iff h).mp hv
    refine ⟨_, run_setPosition hx hp hr ht hd (if_pos hv), rfl, fun hbad => by omega, fun _ _ => ?_⟩
    exact congrArg some (wordOf_setddram hrow hcol)
  · refine ⟨_, run_setPosition hx hp hr ht hd (if_neg hv), rfl, fun _ => ⟨rfl, hr, rfl⟩, fun hrow hcol => ?_⟩
    exact absurd ((validPosition_iff h).mpr ⟨hrow, hcol⟩) hv

end Sys2Proof.Machine

/-! PROOFS of the family 60_exceptions.md: illegal requests (O22), requests while `BUSY` (O23), the end of a failed request (O38), and runs
of a dutiful host (O13). -/

namespace Sys2Proof.Machine

/-! ### Requests without a frame -/

/-- Settles O22: `step_accept` empties the port, and the rejection leaves `PHASE` at the `IDLE` it had. -/
theorem illegalRequestSetsStatusOnly : Obligations.IllegalRequestSetsStatusOnly := by
  unfold Obligations.IllegalRequestSetsStatusOnly
  intro s w e hx hp hr hd
  rw [step_accept hx hp hr, acceptStep_illegal hd, hp]
  rfl

/-- The block's turn in `BUSY`, with a request presented (60_exceptions.md R126). -/
theorem step_overlap {s : State} (hx : s.lcd.rx = none) (hp : s.phase = .busy) (hq : presenting s = true) :
    step s = .fault .overlap := by
  simp only [step, hx, hp, hq, if_true]

/-- Settles O23: the step by `step_overlap`, and every request's meaning because it would load a frame. -/
theorem requestWhileBusyIsOverlap : Obligations.RequestWhileBusyIsOverlap := by
  unfold Obligations.RequestWhileBusyIsOverlap
  refine fun s hp => ⟨fun hx hq => step_overlap hx hp hq, fun i hi => ?_⟩
  rw [exec_eq_acceptFrame hi, acceptFrame_busy hp]

/-! ### The host keeps its duty -/

/-- The host's turn: the block is idle and nothing stands at its port. -/
theorem step_host {s : State} (hx : s.lcd.rx = none) (hp : s.phase = .idle) (hr : s.req = none) :
    step s = .next (hostStep s) := by
  simp only [step, hx, hp, hr]

/-- The idle block always takes the word at its port, legal or not (41_framer.md R81). -/
theorem acceptStep_next {s : State} (hp : s.phase = .idle) (w : ReqWord) : ∃ t, acceptStep w s = .next t := by
  cases hd : decode (.request w) with
  | ok i => exact ⟨_, acceptStep_legal hp hd⟩
  | error e => exact ⟨_, acceptStep_illegal hd s⟩

/-- In `BUSY` there is a next byte, because `K` is below `NW` and that is at most 4 (10_state.md R21, R22). -/
theorem Inv.nextByte_next {s : State} (hs : Inv s) (hp : s.phase = .busy) : ∃ v, nextByte s = some v := by
  obtain ⟨hnw, hk⟩ := hs.counts hp
  exact ⟨_, nextByte_eq (by rcases hnw with h | h <;> bv_omega) hk⟩

/-- A dutiful host presents nothing to the busy block. -/
theorem HostDuty.presenting_eq_false {s : State} (hs : HostDuty s) (hp : s.phase = .busy) : presenting s = false := by
  unfold presenting
  split
  next hr => simp [hs.port hp] at hr
  next w later _ _ hd => exact absurd (by simp [hd]) (hs.waits w)
  next => rfl

/-- No step stops under the invariant and the host's duty, whoever's turn it is (log 1). -/
theorem step_next {s : State} (hs : Inv s) (hd : HostDuty s) : ∃ t, step s = .next t := by
  cases hx : s.lcd.rx with
  | some d =>
    rw [step_deliver hx]
    exact (controllerStep_next d s.takeRx).imp fun _ h => h.1
  | none =>
    cases hp : s.phase with
    | busy =>
      obtain ⟨v, hv⟩ := hs.nextByte_next hp
      exact ⟨_, step_emit hx hp (hd.presenting_eq_false hp) hv⟩
    | idle =>
      cases hr : s.req with
      | some w =>
        rw [step_accept hx hp hr]
        exact acceptStep_next (s := s.takeReq) hp w
      | none => exact ⟨_, step_host hx hp hr⟩

theorem beginOp_todo (op : HostOp) (s : State) : (beginOp op s).todo = s.todo := by
  cases op <;> rfl

/-- The host calls its operations from the front of its list. -/
theorem hostStep_todo_suffix (s : State) : (hostStep s).todo <:+ s.todo := by
  unfold hostStep
  split
  next a rest _ _ => rw [hostAct_todo]
  next op rest _ hd => rw [beginOp_todo, hd]; exact List.suffix_cons op rest
  next => exact List.suffix_rfl

theorem acceptStep_req_todo {w : ReqWord} {s t : State} (h : acceptStep w s = .next t) : t.req = s.req ∧ t.todo = s.todo := by
  rcases acceptStep_cases h with ⟨seq, -, rfl, -⟩ | rfl
  · exact ⟨rfl, rfl⟩
  · exact ⟨rfl, rfl⟩

theorem OnlyController.req_todo {s t : State} (h : OnlyController s t) : t.req = s.req ∧ t.todo = s.todo := by
  rw [OnlyController] at h
  rw [h]
  exact ⟨rfl, rfl⟩

/-- Every step keeps the duty: only the host puts a word on the port, and only while the block is `IDLE`. -/
theorem HostDuty.step {s t : State} (hs : HostDuty s) (h : step s = .next t) : HostDuty t := by
  rcases step_cases h with ⟨d, -, hd⟩ | ⟨-, hp, -, v, -, rfl⟩ | ⟨-, -, w, -, ha⟩ | ⟨-, hp, -, rfl⟩
  · have honly := controllerStep_only hd
    obtain ⟨hreq, htodo⟩ := honly.req_todo
    exact ⟨fun hb => hreq.trans (hs.port (honly.phase.symm.trans hb)), htodo ▸ hs.waits⟩
  · exact ⟨fun _ => by simpa using hs.port hp, by simpa using hs.waits⟩
  · obtain ⟨hreq, htodo⟩ := acceptStep_req_todo ha
    exact ⟨fun _ => hreq, htodo ▸ hs.waits⟩
  · refine ⟨fun hb => ?_, fun w hw => hs.waits w ((hostStep_todo_suffix s).mem hw)⟩
    simp [hostStep_phase, hp] at hb

/-- Settles O13: `step_next`, with `stepKeepsInvariant` and `HostDuty.step`. -/
theorem dutifulHostNeverStops : Obligations.DutifulHostNeverStops := by
  unfold Obligations.DutifulHostNeverStops
  intro s hs hd
  obtain ⟨t, ht⟩ := step_next hs hd
  exact ⟨t, ht, stepKeepsInvariant s t hs ht, hd.step ht⟩

/-! ### After a failing write -/

/-- A run of one step and more. -/
theorem run_succ {n : Nat} {s u : State} (h : Host.Core.run core (n + 1) s = .next u) :
    ∃ t, step s = .next t ∧ Host.Core.run core n t = .next u := by
  have hcore : core.step s = step s := rfl
  simp only [Host.Core.run, hcore] at h
  cases hs : step s with
  | next t => rw [hs] at h; exact ⟨t, rfl, h⟩
  | fault r => rw [hs] at h; cases h
  | refused r => rw [hs] at h; cases h

/-- In one of the next `n` steps the block, `IDLE` and with nothing written until then, accepts a legal word from its port, with `K` = 0
and the frame that `exec` of the word loads (41_framer.md R81). -/
def AcceptsLegalWithin (n : Nat) (s : State) : Prop :=
  ∃ m x y w i, m < n ∧ Host.Core.run core m s = .next x ∧ x.phase = .idle ∧ x.trace = s.trace ∧ x.req = some w ∧
    decode (.request w) = .ok i ∧ step x = .next y ∧ exec i { x with req := none } = .next y ∧ y.k = 0

/-- An acceptance after one step that writes nothing. -/
theorem AcceptsLegalWithin.of_step {n : Nat} {s t : State} (h : step s = .next t) (htrace : t.trace = s.trace)
    (ht : AcceptsLegalWithin n t) : AcceptsLegalWithin (n + 1) s := by
  obtain ⟨m, x, y, w, i, hm, hrun, hidle, hx, hword⟩ := ht
  exact ⟨1 + m, x, y, w, i, by omega, run_trans (run_one h) hrun, hidle, hx.trans htrace, hword⟩

/-- A step that makes an idle block `BUSY` is an acceptance (`hostStepFrame`). -/
theorem AcceptsLegalWithin.of_busy {s t : State} (hp : s.phase = .idle) (h : step s = .next t) (hb : t.phase = .busy) (n : Nat) :
    AcceptsLegalWithin (n + 1) s := by
  obtain ⟨-, hk, w, i, hr, hd, -, hexec⟩ := hostStepFrame.2 s t hp h hb
  exact ⟨0, s, t, w, i, by omega, rfl, hp, rfl, hr, hd, h, hexec, hk⟩

theorem step_idle_trace {s t : State} (hp : s.phase = .idle) (h : step s = .next t) : t.trace = s.trace := by
  rcases step_writes_or_keepsBus h with ⟨-, hb, -⟩ | ⟨-, hk⟩
  · simp [hp] at hb
  · exact hk.trace

/-- An idle block stays `IDLE` and writes nothing for as long as it accepts no legal word. -/
theorem idle_run {n : Nat} {s u : State} (hp : s.phase = .idle) (h : Host.Core.run core n s = .next u) :
    (u.phase = .idle ∧ u.trace = s.trace) ∨ AcceptsLegalWithin n s := by
  induction n generalizing s with
  | zero =>
    cases h
    exact .inl ⟨hp, rfl⟩
  | succ n ih =>
    obtain ⟨t, hstep, hrun⟩ := run_succ h
    cases ht : t.phase with
    | busy => exact .inr (.of_busy hp hstep ht n)
    | idle =>
      have htrace := step_idle_trace hp hstep
      exact (ih ht hrun).imp (fun ⟨hidle, hu⟩ => ⟨hidle, hu.trans htrace⟩) (.of_step hstep htrace)

/-- Settles O38: the failing write leaves an idle block, which `idle_run` follows. -/
theorem failureEndsRequest : Obligations.FailureEndsRequest := by
  unfold Obligations.FailureEndsRequest
  intro s t _ hx hp hr h
  rcases step_writes_or_keepsBus h with ⟨-, -, v, hv, rfl⟩ | ⟨hx' | hp', -⟩
  · have hidle : (emitWith (answerAt s 0) v (takeAnswer s)).phase = .idle := by simp [hr]
    exact ⟨hidle, by simp [hr], ⟨v, hv, by simp [hr]⟩, fun i hi => ⟨_, exec_idle hi hidle, rfl⟩, fun n u => idle_run hidle⟩
  · exact absurd hx hx'
  · simp [hp] at hp'

end Sys2Proof.Machine

/-! PROOFS of the family 70_reset_and_hazards.md: the state after reset (O9, O11), what a failure leaves of the controller and of the
session (O39, O58), and the requests of the initialisation: the 4-bit handshake (O48), the whole of it (O59), and its first
failing write (O60). -/

namespace Sys2Proof.Machine

/-! ### Reset -/

/-- Settles O9: each value is a field of the reset state, or what is read of one. -/
theorem resetValues : Obligations.ResetValues := by
  unfold Obligations.ResetValues
  exact fun p => ⟨rfl, rfl, rfl, rfl, rfl, rfl, rfl⟩

/-- After reset nothing has been written and the block is `IDLE`, so the configuration is all the invariant asks for. -/
theorem Inv.resetWith {p : Params} (h : p.wellFormed = true) : Inv (State.resetWith p) where
  config := h
  status := (by decide : statusOk ≠ 3)
  stepIndex := (by decide : (0 : BitVec 3) ≤ 4)
  half := nofun
  ddram := rfl
  trace := rfl
  out := rfl
  counts := nofun
  frame := nofun
  strobe := nofun

/-- Settles O11; the device address and the timeout, which are open, have no part in `Params.wellFormed`. -/
theorem resetMeetsInvariant : Obligations.ResetMeetsInvariant := by
  unfold Obligations.ResetMeetsInvariant
  exact ⟨fun p => Inv.resetWith, Inv.resetWith rfl⟩

/-! ### What a failure leaves -/

/-- Settles O39: the busy block's step is a write, and a failing one leaves `LCD.half` not known (`emitWith_fail_lcd`). -/
theorem failureMakesHalfUnknown : Obligations.FailureMakesHalfUnknown := by
  unfold Obligations.FailureMakesHalfUnknown
  intro s t hx hp hr h
  rcases step_writes_or_keepsBus h with ⟨-, -, v, -, rfl⟩ | ⟨hx' | hp', -⟩
  · rw [readHalf, emitWith_fail_lcd hr]
    rfl
  · exact absurd hx hx'
  · simp [hp] at hp'

theorem hostAct_probe_ok {s : State} (h : (answerAt s 0).result = .ok) : hostAct .probe s = takeAnswer s := by
  simp [hostAct, nextAnswer_eq, h]

theorem hostAct_probe_fail {s : State} (h : (answerAt s 0).result = .fail) :
    hostAct .probe s = giveUp .deviceNotFound (takeAnswer s) := by
  simp [hostAct, nextAnswer_eq, h]

theorem hostAct_check_failed {onFail : HostReport} {s : State} (h : s.status = statusTransportFailure) :
    hostAct (.check onFail) s = giveUp onFail s := by
  simp [hostAct, errorReport, h]

/-- An initialisation that gives up reports why and leaves the session `Uninitialized` (70_reset_and_hazards.md R143, R147). -/
theorem giveUp_init {r : HostReport} (h : r = .initializationFailed ∨ r = .deviceNotFound) (s : State) :
    giveUp r s = { s with report := some r, task := [], session := { s.session with ready := false } } := if_pos h

/-- Settles O58: the act is the presence check or the reading of `STATUS`, and each gives up. -/
theorem initFailureLeavesUninitialized : Obligations.InitFailureLeavesUninitialized := by
  unfold Obligations.InitFailureLeavesUninitialized
  intro s more hx hp hr
  refine ⟨fun ht hfail => ?_, fun ht hst => ?_⟩
  · have hact := hostAct_probe_fail (s := { s with task := more }) hfail
    rw [giveUp_init (.inr rfl)] at hact
    exact ⟨_, (step_hostAct hx hp hr ht).trans (congrArg _ hact), rfl, rfl, by simp [hr], rfl, by simp⟩
  · have hact := hostAct_check_failed (onFail := .initializationFailed) (s := { s with task := more }) hst
    rw [giveUp_init (.inl rfl)] at hact
    exact ⟨_, (step_hostAct hx hp hr ht).trans (congrArg _ hact), rfl, rfl, hr, rfl, rfl⟩

/-! ### The host in the middle of an operation -/

/-- The block is `IDLE` with nothing at its port, and the host has `acts` still to do. -/
structure AtTask (s : State) (acts : List HostAct) : Prop where
  phase : s.phase = .idle
  req : s.req = none
  task : s.task = acts

/-- From `s` the host comes to have `acts` to do in `t`: on the way the block has accepted `ws` and ended with the status `st`, the
entries `es` have been added to `TRACE`, each of them an answer used up, and the host sees no other change. -/
structure GoesOn (s : State) (ws : List ReqWord) (st : BitVec 2) (es : List TraceEntry) (acts : List HostAct) (t : State) :
    Prop where
  reaches : Reaches s ws t
  view : hostView t = { hostView s with status := st, trace := s.trace ++ es, task := acts }
  answers : answerAt t = fun n => answerAt s (n + es.length)

section GoesOn

variable {s t u : State} {ws ws' : List ReqWord} {st st' : BitVec 2} {es es' : List TraceEntry} {acts acts' : List HostAct}

theorem GoesOn.params (h : GoesOn s ws st es acts t) : t.params = s.params := congrArg HostView.params h.view

theorem GoesOn.status (h : GoesOn s ws st es acts t) : t.status = st := congrArg HostView.status h.view

theorem GoesOn.trace (h : GoesOn s ws st es acts t) : t.trace = s.trace ++ es := congrArg HostView.trace h.view

theorem GoesOn.atTask (h : GoesOn s ws st es acts t) (hs : AtTask s acts') : AtTask t acts where
  phase := (congrArg HostView.phase h.view).trans hs.phase
  req := (congrArg HostView.req h.view).trans hs.req
  task := congrArg HostView.task h.view

theorem GoesOn.trans (h : GoesOn s ws st es acts t) (h' : GoesOn t ws' st' es' acts' u) :
    GoesOn s (ws ++ ws') st' (es ++ es') acts' u where
  reaches := h.reaches.trans h'.reaches
  view := by rw [h'.view, h.view, h.trace, List.append_assoc]
  answers := by
    rw [h'.answers, h.answers]
    simp [Nat.add_assoc, Nat.add_comm es'.length]

/-- Where nothing is accepted or written, the host sees but its own progress. -/
theorem GoesOn.view_quiet (h : GoesOn s [] s.status [] acts t) : hostView t = { hostView s with task := acts } := by
  rw [h.view, List.append_nil]
  rfl

end GoesOn

/-- What the controller may have done while the host waited for its turn: it keeps the progress of the mandatory sequence
(70_reset_and_hazards.md R145), and with nothing delivered to it it keeps everything (log 1). -/
structure Settled (l l' : Lcd) : Prop where
  stage : l'.stage = l.stage
  still : l.rx = none → l' = l

theorem Settled.refl (l : Lcd) : Settled l l := ⟨rfl, fun _ => rfl⟩

theorem Settled.trans {l l' l'' : Lcd} (h : Settled l l') (h' : Settled l' l'') : Settled l l'' where
  stage := h'.stage.trans h.stage
  still hx := (h'.still ((h.still hx).symm ▸ hx)).trans (h.still hx)

/-- The run of `reaches_settled`, with what it keeps of the controller. -/
theorem reaches_settled_lcd (s : State) :
    ∃ l f, Reaches s [] { s with lcd := l, frees := f } ∧ l.rx = none ∧ Settled s.lcd l := by
  cases hx : s.lcd.rx with
  | none => exact ⟨s.lcd, s.frees, .refl s, hx, .refl s.lcd⟩
  | some d =>
    obtain ⟨t, ht, honly⟩ := controllerStep_next d s.takeRx
    have hstep : step s = .next { s with lcd := t.lcd, frees := t.frees } :=
      ((step_deliver hx).trans ht).trans (congrArg _ honly)
    have hkeeps := controllerStep_keeps ht
    exact ⟨t.lcd, t.frees, .quiet hstep (.inl (by simp [hx])), hkeeps.rx, hkeeps.stage, fun hnone => by simp [hx] at hnone⟩

/-- The host's next act, once the controller has taken what was delivered to it: the act meets the state `u`. -/
theorem AtTask.act {s : State} {a : HostAct} {more : List HostAct} (hs : AtTask s (a :: more)) :
    ∃ u, Reaches s [] (hostAct a u) ∧ hostView u = { hostView s with task := more } ∧ answerAt u = answerAt s ∧
      u.lcd.rx = none ∧ Settled s.lcd u.lcd := by
  obtain ⟨l, f, hsettle, hx, hl⟩ := reaches_settled_lcd s
  exact ⟨{ s with lcd := l, frees := f, task := more },
    hsettle.trans (.quiet (step_hostAct hx hs.phase hs.req hs.task) (.inr (.inr hs.req))), rfl, rfl, hx, hl⟩

/-- The host goes past an act that does nothing. -/
theorem AtTask.pass {s : State} {a : HostAct} {more : List HostAct} (hs : AtTask s (a :: more))
    (ha : ∀ u : State, u.status = s.status → hostAct a u = u) :
    ∃ t, GoesOn s [] s.status [] more t ∧ Settled s.lcd t.lcd := by
  obtain ⟨u, hact, hview, hans, -, hl⟩ := hs.act
  rw [ha u (congrArg HostView.status hview)] at hact
  exact ⟨u, ⟨hact, by rw [hview, List.append_nil]; rfl, hans⟩, hl⟩

/-- The host goes past its delays (log 24). -/
theorem AtTask.delays {s : State} {ms : List Nat} {more : List HostAct} (hs : AtTask s (ms.map .delay ++ more)) :
    ∃ t, GoesOn s [] s.status [] more t ∧ Settled s.lcd t.lcd := by
  induction ms generalizing s with
  | nil =>
    have htask : s.task = more := hs.task
    exact ⟨s, ⟨.refl s, by simp [hostView, htask], rfl⟩, .refl s.lcd⟩
  | cons m ms ih =>
    obtain ⟨t, ht, htl⟩ := hs.pass fun _ _ => rfl
    obtain ⟨u, hu, hul⟩ := ih (ht.atTask hs)
    rw [ht.status] at hu
    exact ⟨u, ht.trans hu, htl.trans hul⟩

/-! ### The entries of a frame -/

/-- The entries of the bytes `seq`, each answered `ok` (10_state.md R32). -/
def okWrites (a : BusAddr) (seq : List Byte) : List TraceEntry := seq.map fun v => ⟨a, v, .ok⟩

/-- The entries of the bytes `seq` up to the one at `j`, whose write is the first to fail (41_framer.md R83). -/
def failedWrites (a : BusAddr) (seq : List Byte) (j : Nat) : List TraceEntry :=
  okWrites a (seq.take j) ++ [⟨a, seq.getD j 0, .fail⟩]

@[simp] theorem okWrites_append (a : BusAddr) (seq seq' : List Byte) :
    okWrites a (seq ++ seq') = okWrites a seq ++ okWrites a seq' :=
  List.map_append

@[simp] theorem okWrites_length (a : BusAddr) (seq : List Byte) : (okWrites a seq).length = seq.length := List.length_map _

theorem failedWrites_append_left {seq : List Byte} {j : Nat} (h : j < seq.length) (a : BusAddr) (seq' : List Byte) :
    failedWrites a (seq ++ seq') j = failedWrites a seq j := by
  rw [failedWrites, failedWrites, List.take_append_of_le_length (by omega), List.getD_append _ _ _ _ h]

theorem failedWrites_append_right {seq : List Byte} {j : Nat} (h : seq.length ≤ j) (a : BusAddr) (seq' : List Byte) :
    failedWrites a (seq ++ seq') j = okWrites a seq ++ failedWrites a seq' (j - seq.length) := by
  rw [failedWrites, failedWrites, List.take_append, List.take_of_length_le h, List.getD_append_right _ _ _ _ h]
  simp

/-- The run of a frame whose first failing write is the one at `j` (41_framer.md R83). -/
theorem runFrame_fails_at {a : BusAddr} {ans : Nat → Draw} {seq : List Byte} {j : Nat} (hj : j < seq.length)
    (hok : ∀ i < j, (ans i).result = .ok) (hfail : (ans j).result = .fail) :
    runFrame a ans seq = (statusTransportFailure, failedWrites a seq j) := by
  induction seq generalizing ans j with
  | nil => simp at hj
  | cons v rest ih =>
    cases j with
    | zero => simp [runFrame, hfail, failedWrites, okWrites]
    | succ j =>
      rw [runFrame_ok (hok 0 (by omega)), ih (by simpa using hj) (fun i hi => hok (i + 1) (by omega)) hfail]
      rfl

/-! ### The end of a nibble request in the controller -/

/-- What a nibble request of nibble `n`, answered `ok`, has made of the controller: the mandatory sequence has come one request further,
or it is complete (70_reset_and_hazards.md R145). -/
structure AfterNibble (n : Nibble) (l l' : Lcd) : Prop where
  more : ∀ st, stageAfter l.stage n = some st → l'.stage = st
  last : stageAfter l.stage n = none → l'.mode = .bit4 ∧ l'.half = .hi ∧ l'.halfKnown = true ∧ l'.rx = none

theorem AfterNibble.settled {n : Nibble} {l l' l'' : Lcd} (h : AfterNibble n l l') (h' : Settled l' l'') :
    AfterNibble n l l'' where
  more st hst := h'.stage.trans (h.more st hst)
  last hst := by
    obtain ⟨hm, hh, hk, hx⟩ := h.last hst
    rw [h'.still hx]
    exact ⟨hm, hh, hk, hx⟩

theorem AfterNibble.of_settled {n : Nibble} {l l' l'' : Lcd} (h : Settled l l') (h' : AfterNibble n l' l'') :
    AfterNibble n l l'' where
  more st hst := h'.more st (by rwa [h.stage])
  last hst := h'.last (by rwa [h.stage])

theorem completeNibble_after (n : Nibble) {l : Lcd} {s : State} (h : s.lcd.stage = l.stage) :
    AfterNibble n l (completeNibble n s).lcd := by
  unfold completeNibble
  rw [h]
  cases hst : stageAfter l.stage n with
  | none => exact ⟨fun st h' => by simp [hst] at h', fun _ => ⟨rfl, rfl, rfl, rfl⟩⟩
  | some st => exact ⟨fun st' h' => by simpa [hst] using h', fun h' => by simp [hst] at h'⟩

theorem latch_stage (n : Nibble) (rs : Bit) (s : State) : (latch n rs s).lcd.stage = s.lcd.stage := by
  unfold latch deliver
  simp only
  split
  · split
    · rfl
    · split <;> rfl
  · rfl

/-- A write answered `ok`, as the host sees it. -/
theorem Sending.hostView_sent {v : Byte} {rest : List Byte} {s : State} (hs : Sending s (v :: rest))
    (hok : (answerAt s 0).result = .ok) :
    hostView (sent v s) =
      { hostView s with
        trace := s.trace ++ [⟨s.params.devAddr, v, .ok⟩]
        status := if rest = [] then statusOk else s.status
        phase := if rest = [] then .idle else .busy } := by
  simp only [sent, hostView_emitWith, hostView_takeAnswer, takeAnswer_trace, takeAnswer_params, takeAnswer_k, takeAnswer_nw,
    takeAnswer_status, takeAnswer_phase, hs.last_iff, hs.phase, hok]
  simp

/-- A byte on the expander leaves the progress of the mandatory sequence, which only the end of a frame moves. -/
theorem drive_stage (d : Draw) (v : Byte) (s : State) : (drive d v s).lcd.stage = s.lcd.stage := by
  unfold drive
  simp only
  split
  · exact latch_stage _ _ _
  · rfl

/-- What the host sees once the frame `seq` has been sent with every write answered `ok` (41_framer.md R83). -/
def frameSent (seq : List Byte) (v : HostView) : HostView :=
  { v with phase := .idle, status := statusOk, trace := v.trace ++ okWrites v.params.devAddr seq }

/-- A nibble frame whose two writes are answered `ok`: the first raises EN, so nothing is delivered to the controller between them, and
the second completes the request of the nibble it carries. -/
theorem Sending.nibbleFrame {n : Nibble} {s : State} (hs : Sending s (frameNibble s.params.wiring n))
    (hwf : s.params.wiring.wellFormed = true) (hnw : s.nw = 2) (hx : s.lcd.rx = none)
    (hok : ∀ j < 2, (answerAt s j).result = .ok) :
    ∃ t, Reaches s [] t ∧
      hostView t = frameSent (frameNibble s.params.wiring n) (hostView s) ∧ answerAt t = (fun j => answerAt s (j + 2)) ∧
      AfterNibble n s.lcd t.lcd := by
  obtain ⟨hrise, -⟩ := strobes_lines (strobes_nibble hwf n 0)
  obtain ⟨hdata, -⟩ := strobe_carries hwf n 0
  rw [frameNibble_eq_strobe] at hs ⊢
  generalize placeData s.params.wiring n ||| controlBits s.params.wiring 0 = w at *
  generalize w ||| lineMask s.params.wiring.en = v at *
  have hok0 := hok 0 (by decide)
  have hok1 : (answerAt (sent v s) 0).result = .ok := by rw [answerAt_sent]; exact hok 1 (by decide)
  have hmore := hs.sent_more hok0 (List.cons_ne_nil w [])
  have hlcd : (sent v s).lcd = s.lcd := by rw [hs.sent_lcd hok0, if_neg (List.cons_ne_nil w []), drive_rise hrise]
  refine ⟨sent w (sent v s), ?_, ?_, ?_, ?_⟩
  · exact (Reaches.quiet (hs.step hx) (.inr (.inl hs.phase))).trans (.quiet (hmore.step (hlcd ▸ hx)) (.inr (.inl hmore.phase)))
  · have hview := hs.hostView_sent hok0
    rw [hmore.hostView_sent hok1, hview, sent_params, show (sent v s).trace = _ from congrArg HostView.trace hview]
    simp [frameSent, okWrites, hostView]
  · funext j
    rw [answerAt_sent, answerAt_sent]
  · obtain ⟨hparams, hnw'⟩ := drive_block (answerAt (sent v s) 0) w (sent v s)
    rw [sent_params] at hparams
    rw [sent_nw, hnw] at hnw'
    rw [hmore.sent_lcd hok1, if_pos rfl, completeFrame_nibble hnw', hparams, hdata]
    exact completeNibble_after n (by rw [drive_stage, hlcd])

/-! ### One request of the handshake -/

/-- What a request answered `ok` has made of the controller, as far as the handshake turns on it. -/
def AfterRequest (i : Instr) (l l' : Lcd) : Prop := ∀ n, i = .nib n → AfterNibble n l l'

theorem decode_wordOf {i : Instr} (hi : instrFamily i = none) : decode (.request (wordOf i)) = .ok i := by
  have hword : encode i = .request (wordOf i) := by
    cases i with
    | hdClear | hdHome | hdEntry | hdDispctl | hdShift | hdFuncset | hdSetCgram | hdSetDdram => cases hi
    | _ => rfl
  exact decode_of_encode hword

/-- The host calls a request: `call_runs`, in terms of `GoesOn`. -/
theorem AtTask.call {s : State} {i : Instr} {a : HostAct} {more : List HostAct} (hs : AtTask s (.call (wordOf i) :: a :: more))
    (hi : instrFamily i = none) {st : BitVec 2} {es : List TraceEntry}
    (hrun : runFrame s.params.devAddr (answerAt s) (requestFrame s.params i) = (st, es)) :
    ∃ t, GoesOn s [wordOf i] st es (a :: more) t := by
  obtain ⟨t, hst, hview, hans⟩ := call_runs hs.phase hs.req hs.task (decode_wordOf hi)
  rw [hrun] at hview hans
  exact ⟨t, hst, hview, hans⟩

/-- The host calls a nibble request, whose writes are answered `ok`. -/
theorem AtTask.callNibble {s : State} {n : Nibble} {a : HostAct} {more : List HostAct}
    (hs : AtTask s (.call (wordOf (.nib n)) :: a :: more)) (hwf : s.params.wiring.wellFormed = true)
    (hok : ∀ j < 2, (answerAt s j).result = .ok) :
    ∃ t, GoesOn s [wordOf (.nib n)] statusOk (okWrites s.params.devAddr (frameNibble s.params.wiring n)) (a :: more) t ∧
      AfterNibble n s.lcd t.lcd := by
  obtain ⟨u, hcall, hu, hua, hx, hl⟩ := hs.act
  have hup : u.params = s.params := congrArg HostView.params hu
  have haccept := reaches_accepted (s := { u with req := some (wordOf (.nib n)) }) hx ((congrArg HostView.phase hu).trans hs.phase)
    rfl (decode_wordOf (i := .nib n) rfl)
  have hquiet : presenting { u with req := none } = false := by simp [presenting, show u.task = _ from congrArg HostView.task hu]
  obtain ⟨t, ht, hview, hans, hafter⟩ :=
    (Sending.accepted (seq := frameNibble u.params.wiring n) (.inl rfl) hquiet).nibbleFrame (s := accepted _ _)
      (by rw [accepted_params, hup]; exact hwf) rfl hx fun j hj => hua ▸ hok j hj
  refine ⟨t, ⟨(hcall.trans haccept).trans ht, hview.trans ?_, hans.trans (by rw [← hua]; rfl)⟩, .of_settled hl hafter⟩
  refine (congrArg (fun v : HostView => frameSent (frameNibble v.params.wiring n) { v with req := none }) hu).trans ?_
  rw [← hs.req]
  simp only [frameSent, ← hs.phase]
  rfl

/-- The host calls a request, whose writes are answered `ok`. -/
theorem AtTask.call_ok {s : State} {i : Instr} {a : HostAct} {more : List HostAct}
    (hs : AtTask s (.call (wordOf i) :: a :: more)) (hi : instrFamily i = none) (hwf : s.params.wiring.wellFormed = true)
    (hok : ∀ j < (requestFrame s.params i).length, (answerAt s j).result = .ok) :
    ∃ t, GoesOn s [wordOf i] statusOk (okWrites s.params.devAddr (requestFrame s.params i)) (a :: more) t ∧
      AfterRequest i s.lcd t.lcd := by
  by_cases hn : ∃ n, i = .nib n
  · obtain ⟨n, rfl⟩ := hn
    obtain ⟨t, ht, hafter⟩ := hs.callNibble hwf hok
    exact ⟨t, ht, fun m hm => by cases hm; exact hafter⟩
  · obtain ⟨t, ht⟩ := hs.call hi (runFrame_all_ok hok)
    exact ⟨t, ht, fun n h => absurd ⟨n, h⟩ hn⟩

/-- The host calls a request of the handshake, whose writes are answered `ok`, reads `STATUS` and makes its delays. -/
theorem AtTask.initCall_ok {s : State} {i : Instr} {ms : List Nat} {more : List HostAct}
    (hs : AtTask s (initCall i ++ (ms.map .delay ++ more))) (hi : instrFamily i = none)
    (hwf : s.params.wiring.wellFormed = true)
    (hok : ∀ j < (requestFrame s.params i).length, (answerAt s j).result = .ok) :
    ∃ t, GoesOn s [wordOf i] statusOk (okWrites s.params.devAddr (requestFrame s.params i)) more t ∧
      AfterRequest i s.lcd t.lcd := by
  obtain ⟨t, ht, hafter⟩ := AtTask.call_ok (more := ms.map .delay ++ more) hs hi hwf hok
  obtain ⟨u, hu, hul⟩ := (ht.atTask hs).pass fun u hst => hostAct_check_ok (hst.trans ht.status)
  obtain ⟨x, hx, hxl⟩ := (hu.atTask (ht.atTask hs)).delays
  rw [hu.status, ht.status] at hx
  rw [ht.status] at hu
  refine ⟨x, ?_, fun n hn => (hafter n hn).settled (hul.trans hxl)⟩
  simpa using (ht.trans hu).trans hx

/-- What the host sees when the initialisation gives up at a request (70_reset_and_hazards.md R147). -/
def initGivenUp (v : HostView) : HostView :=
  { v with task := [], report := some .initializationFailed, session := { v.session with ready := false } }

/-- The host calls a request of the handshake, whose first failing write is the one at `j`, and gives up when it reads `STATUS`. -/
theorem AtTask.initCall_fail {s : State} {i : Instr} {more : List HostAct} {j : Nat} (hs : AtTask s (initCall i ++ more))
    (hi : instrFamily i = none) (hj : j < (requestFrame s.params i).length)
    (hok : ∀ k < j, (answerAt s k).result = .ok) (hfail : (answerAt s j).result = .fail) :
    ∃ t, Reaches s [wordOf i] t ∧
      hostView t =
        initGivenUp { hostView s with
          status := statusTransportFailure
          trace := s.trace ++ failedWrites s.params.devAddr (requestFrame s.params i) j } := by
  obtain ⟨t, ht⟩ := AtTask.call (more := more) hs hi (runFrame_fails_at hj hok hfail)
  obtain ⟨u, hact, hview, -⟩ := (ht.atTask hs).act
  rw [hostAct_check_failed ((congrArg HostView.status hview).trans ht.status), giveUp_init (.inl rfl)] at hact
  rw [ht.view] at hview
  exact ⟨_, ht.reaches.trans hact, congrArg initGivenUp hview⟩

/-! ### The requests of the handshake, one after another -/

/-- The acts of requests of the handshake, each with the delays that follow it. -/
def planActs (l : List (Instr × List Nat)) : List HostAct := l.flatMap fun x => initCall x.1 ++ x.2.map .delay

/-- The words of such requests. -/
def planWords (l : List (Instr × List Nat)) : List ReqWord := l.map fun x => wordOf x.1

/-- The bytes of their frames. -/
def planBytes (p : Params) (l : List (Instr × List Nat)) : List Byte := l.flatMap fun x => requestFrame p x.1

/-- What such requests, answered `ok`, have made of the controller one after another. -/
def AfterPlan : List (Instr × List Nat) → Lcd → Lcd → Prop
  | [], l, l' => l' = l
  | x :: rest, l, l' => ∃ m, AfterRequest x.1 l m ∧ AfterPlan rest m l'

/-- How many frames of these lengths have begun when the write at `j` is made, the first write being at 0. -/
def framesBegun : List Nat → Nat → Nat
  | [], _ => 0
  | n :: rest, j => 1 + if j < n then 0 else framesBegun rest (j - n)

/-- The lengths of the frames of such requests. -/
def planLengths (p : Params) (l : List (Instr × List Nat)) : List Nat := l.map fun x => (requestFrame p x.1).length

theorem planActs_cons (x : Instr × List Nat) (rest : List (Instr × List Nat)) (more : List HostAct) :
    planActs (x :: rest) ++ more = initCall x.1 ++ (x.2.map .delay ++ (planActs rest ++ more)) := by
  simp [planActs]

theorem planBytes_cons (p : Params) (x : Instr × List Nat) (rest : List (Instr × List Nat)) :
    planBytes p (x :: rest) = requestFrame p x.1 ++ planBytes p rest := rfl

/-- Requests of the handshake whose writes are all answered `ok`. -/
theorem AtTask.plan_ok {s : State} {l : List (Instr × List Nat)} {more : List HostAct} (hs : AtTask s (planActs l ++ more))
    (hne : l ≠ []) (hi : ∀ y ∈ l, instrFamily y.1 = none) (hwf : s.params.wiring.wellFormed = true)
    (hok : ∀ j < (planBytes s.params l).length, (answerAt s j).result = .ok) :
    ∃ t, GoesOn s (planWords l) statusOk (okWrites s.params.devAddr (planBytes s.params l)) more t ∧ AfterPlan l s.lcd t.lcd := by
  induction l generalizing s with
  | nil => exact absurd rfl hne
  | cons x rest ih =>
    rw [planActs_cons] at hs
    simp only [planBytes_cons, List.length_append, okWrites_append] at hok ⊢
    obtain ⟨t, ht, hafter⟩ := hs.initCall_ok (hi x (by simp)) hwf fun j hj => hok j (by omega)
    cases rest with
    | nil => exact ⟨t, by simpa [planWords, planBytes, planActs, okWrites] using ht, t.lcd, hafter, rfl⟩
    | cons y rest =>
      obtain ⟨u, hu, hafter'⟩ := ih (ht.atTask hs) (by simp) (fun z hz => hi z (by simp [hz])) (ht.params ▸ hwf) fun j hj => by
        rw [ht.answers, okWrites_length]
        rw [ht.params] at hj
        exact hok _ (by omega)
      rw [ht.params] at hu
      exact ⟨u, ht.trans hu, t.lcd, hafter, hafter'⟩

/-- Requests of the handshake whose first failing write is the one at `j`. -/
theorem AtTask.plan_fail {s : State} {l : List (Instr × List Nat)} {more : List HostAct} {j : Nat}
    (hs : AtTask s (planActs l ++ more)) (hi : ∀ y ∈ l, instrFamily y.1 = none) (hwf : s.params.wiring.wellFormed = true)
    (hj : j < (planBytes s.params l).length) (hok : ∀ k < j, (answerAt s k).result = .ok)
    (hfail : (answerAt s j).result = .fail) :
    ∃ t, Reaches s ((planWords l).take (framesBegun (planLengths s.params l) j)) t ∧
      hostView t =
        initGivenUp { hostView s with
          status := statusTransportFailure
          trace := s.trace ++ failedWrites s.params.devAddr (planBytes s.params l) j } := by
  induction l generalizing s j with
  | nil => simp [planBytes] at hj
  | cons x rest ih =>
    rw [planActs_cons] at hs
    rw [planBytes_cons] at hj ⊢
    have hx := hi x (by simp)
    by_cases hhere : j < (requestFrame s.params x.1).length
    · obtain ⟨t, ht, hview⟩ := hs.initCall_fail hx hhere hok hfail
      refine ⟨t, ?_, ?_⟩
      · simpa [planWords, planLengths, framesBegun, hhere] using ht
      · rw [hview, failedWrites_append_left hhere]
    · obtain ⟨t, ht, -⟩ := hs.initCall_ok hx hwf fun k hk => hok k (by omega)
      rw [List.length_append] at hj
      have hans (k : Nat) : answerAt t k = answerAt s (k + (requestFrame s.params x.1).length) := by
        rw [ht.answers, okWrites_length]
      obtain ⟨u, hu, hview⟩ := ih (j := j - (requestFrame s.params x.1).length) (ht.atTask hs) (fun z hz => hi z (by simp [hz]))
        (ht.params ▸ hwf) (by rw [ht.params]; omega) (fun k hk => by rw [hans]; exact hok _ (by omega))
        (by rw [hans, Nat.sub_add_cancel (by omega)]; exact hfail)
      rw [ht.params] at hu hview
      refine ⟨u, ?_, ?_⟩
      · simpa [planWords, planLengths, framesBegun, hhere, Nat.add_comm 1] using ht.reaches.trans hu
      · rw [hview, ht.view, ht.trace, failedWrites_append_right (by omega), List.append_assoc]
        rfl

/-! ### The 4-bit handshake -/

/-- Step 3 of the handshake (70_reset_and_hazards.md R145): its requests, each with the delay that follows it. -/
def nibblePlan : List (Instr × List Nat) := [(.nib 3, [5]), (.nib 3, [1]), (.nib 3, [1]), (.nib 2, [1])]

theorem planActs_nibblePlan : planActs nibblePlan = nibbleHandshake := rfl

/-- The progress of the mandatory sequence with one more `NIB 3`. -/
def stageNext : Stage → Stage
  | .start => .one
  | .one => .two
  | .two => .three
  | .three => .three

theorem stageAfter_three (st : Stage) : stageAfter st 3 = some (stageNext st) := by cases st <;> rfl

theorem stageNext_thrice (st : Stage) : stageNext (stageNext (stageNext st)) = .three := by cases st <;> rfl

/-- The mandatory sequence, answered `ok`, leaves the controller in `BIT4` with a high nibble next, wherever it started
(70_reset_and_hazards.md R145). -/
theorem AfterPlan.bit4 {l l' : Lcd} (h : AfterPlan nibblePlan l l') : l'.mode = .bit4 ∧ l'.half = .hi ∧ l'.halfKnown = true := by
  obtain ⟨l1, h1, l2, h2, l3, h3, l4, h4, rfl⟩ := h
  have hst1 := (h1 3 rfl).more _ (stageAfter_three _)
  have hst2 := (h2 3 rfl).more _ (stageAfter_three _)
  have hst3 := (h3 3 rfl).more _ (stageAfter_three _)
  rw [hst2, hst1, stageNext_thrice] at hst3
  obtain ⟨hm, hh, hk, -⟩ := (h4 2 rfl).last (by rw [hst3]; rfl)
  exact ⟨hm, hh, hk⟩

/-- Settles O48: `AtTask.plan_ok` runs the four requests, and `AfterPlan.bit4` says what they make of the controller. -/
theorem handshakeReachesFourBit : Obligations.HandshakeReachesFourBit := by
  unfold Obligations.HandshakeReachesFourBit
  intro s ds rest more hwf hp hr ht ha hlen hds
  obtain ⟨hwiring, -⟩ := params_values hwf
  have hs : AtTask s (planActs nibblePlan ++ more) := ⟨hp, hr, by rw [ht, planActs_nibblePlan]⟩
  obtain ⟨t, ht, hafter⟩ := hs.plan_ok (by simp [nibblePlan]) (by simp [nibblePlan, instrFamily]) hwiring fun j hj =>
    answerAt_ok_of_append ha hds (hlen ▸ hj)
  obtain ⟨n, hrun, hwords⟩ := ht.reaches
  obtain ⟨hm, hh, hk⟩ := hafter.bit4
  have hend := ht.atTask hs
  exact ⟨n, t, hrun, hend.phase, ht.status, hm, by simp [readHalf, hk, hh], hend.task, hwords, ht.trace⟩

/-! ### The initialisation -/

/-- The requests of the initialisation (70_reset_and_hazards.md R145, R146), each with the delay that follows it; none follows the last. -/
def initPlan (c b : Bit) : List (Instr × List Nat) :=
  nibblePlan ++ [(.funcset 0 1 0, [1]), (.dispctl 1 c b, [1]), (.clear, [1]), (.entry 1 0, [])]

theorem handshake_eq_plan (c b : Bit) :
    handshake c b = .probe :: ([45].map .delay ++ (planActs (initPlan c b) ++ [.promote c b])) := rfl

/-- The initialisation presents requests to the block. -/
theorem initPlan_requests (c b : Bit) : ∀ y ∈ initPlan c b, instrFamily y.1 = none := by
  simp [initPlan, nibblePlan, instrFamily]

/-- The eight words (30_encoding.md R60). -/
theorem planWords_initPlan (c b : Bit) :
    planWords (initPlan c b) =
      [0x1003#16, 0x1003#16, 0x1003#16, 0x1002#16, 0x9008#16, 0x7004#16 ||| c.setWidth 16 <<< 1 ||| b.setWidth 16, 0x4000#16,
        0x6002#16] := by
  rw [← wordOf_displayOn]
  rfl

/-- The 24 bytes (41_framer.md R84, R85; 42_command_encoder.md R94 to R99). -/
theorem planBytes_initPlan {p : Params} (h : p.wellFormed = true) (c b : Bit) :
    planBytes p (initPlan c b) =
      frameNibble p.wiring 3 ++ frameNibble p.wiring 3 ++ frameNibble p.wiring 3 ++ frameNibble p.wiring 2 ++
        frameByte p.wiring 0x28 0 ++ frameByte p.wiring (0x0C#8 ||| c.setWidth 8 <<< 1 ||| b.setWidth 8) 0 ++
        frameByte p.wiring 0x01 0 ++ frameByte p.wiring 0x06 0 := by
  have hfuncset : encFuncset p 0 1 0 = 0x28 := encFuncset_eq h 0 1 0
  have hentry : encEntry p 1 0 = 0x06 := encEntry_eq h 1 0
  simp only [planBytes, initPlan, nibblePlan, List.cons_append, List.nil_append, List.flatMap_cons, List.flatMap_nil,
    List.append_nil, List.append_assoc, requestFrame, hfuncset, hentry, encClear_eq h, encDispctl_on h]

/-- The initialisation begins: with the presence check answered `ok` the host comes to its requests, one answer having been used up. -/
theorem init_begins {s : State} {c b : Bit} {later : List HostOp} (hs : AtTask s []) (hd : s.todo = .init c b :: later)
    (hok : (answerAt s 0).result = .ok) :
    ∃ t, Reaches s [] t ∧ AtTask t (planActs (initPlan c b) ++ [.promote c b]) ∧
      hostView t = { hostView s with todo := later, task := planActs (initPlan c b) ++ [.promote c b] } ∧
      answerAt t = fun n => answerAt s (n + 1) := by
  obtain ⟨l, f, hsettle, hx⟩ := reaches_settled s
  have hbegin := hsettle.trans (.quiet (step_beginOp hx hs.phase hs.req hs.task hd) (.inr (.inr hs.req)))
  have hat : AtTask { s with lcd := l, frees := f, todo := later, task := handshake c b } (handshake c b) :=
    ⟨hs.phase, hs.req, rfl⟩
  rw [handshake_eq_plan] at hat
  obtain ⟨u, hprobe, hu, hua, -⟩ := hat.act
  rw [hostAct_probe_ok (by rw [hua]; exact hok)] at hprobe
  have hut : hostView (takeAnswer u) = _ := (hostView_takeAnswer u).trans hu
  have hat' : AtTask (takeAnswer u) ([45].map .delay ++ (planActs (initPlan c b) ++ [.promote c b])) :=
    ⟨(congrArg HostView.phase hut).trans hs.phase, (congrArg HostView.req hut).trans hs.req, congrArg HostView.task hut⟩
  obtain ⟨t, ht, -⟩ := hat'.delays
  refine ⟨t, (hbegin.trans hprobe).trans ht.reaches, ht.atTask hat', ?_, ?_⟩
  · rw [ht.view_quiet, hut]
    rfl
  · refine ht.answers.trans ((funext (answerAt_takeAnswer u)).trans ?_)
    rw [hua]
    rfl

/-- Settles O59: the presence check, `AtTask.plan_ok` for the eight requests, and the promotion. -/
theorem initSendsExactlyEightRequests : Obligations.InitSendsExactlyEightRequests := by
  unfold Obligations.InitSendsExactlyEightRequests
  intro s c b ds rest later hwf hp hr ht hd ha hlen hds
  have hok (j : Nat) (hj : j < 25) : (answerAt s j).result = .ok := answerAt_ok_of_append ha hds (hlen ▸ hj)
  obtain ⟨t, hst, hat, htv, hta⟩ := init_begins ⟨hp, hr, ht⟩ hd (hok 0 (by decide))
  have htp : t.params = s.params := congrArg HostView.params htv
  obtain ⟨hwiring, -⟩ := params_values hwf
  obtain ⟨u, hu, -⟩ := hat.plan_ok (by simp [initPlan]) (initPlan_requests c b) (htp ▸ hwiring) fun j hj => by
    rw [hta]
    have hj' : j < 24 := hj
    exact hok _ (by omega)
  obtain ⟨v, hpromote, hv, -⟩ := (hu.atTask hat).act
  obtain ⟨n, hrun, hwords⟩ := (hst.trans hu.reaches).trans hpromote
  refine ⟨n, _, hrun, rfl, rfl, rfl, rfl, (congrArg HostView.status hv).trans hu.status, ?_, rfl, ?_, ?_⟩
  · exact (congrArg HostView.todo hv).trans ((congrArg HostView.todo hu.view).trans (congrArg HostView.todo htv))
  · simpa [planWords_initPlan] using hwords
  · have hut : u.trace = t.trace ++ _ := hu.trace
    rw [htp, planBytes_initPlan hwf, show t.trace = s.trace from congrArg HostView.trace htv] at hut
    exact (congrArg HostView.trace hv).trans hut

/-- How many requests have begun by the failing write: the frames of the handshake are four of 2 bytes and four of 4. -/
theorem framesBegun_init : ∀ j < 24, framesBegun [2, 2, 2, 2, 4, 4, 4, 4] j = if j < 8 then j / 2 + 1 else 4 + (j - 8) / 4 + 1 := by
  decide

/-- Settles O60: the presence check, and `AtTask.plan_fail` for the eight requests. -/
theorem initFailsAtFirstFailingWrite : Obligations.InitFailsAtFirstFailingWrite := by
  unfold Obligations.InitFailsAtFirstFailingWrite
  intro s c b ds rest f later hwf hp hr ht hd ha hlo hhi hds hf p sent j
  have hok (k : Nat) (hk : k < ds.length) : (answerAt s k).result = .ok := answerAt_ok_of_append ha hds hk
  have hfail : (answerAt s (j + 1)).result = .fail := by
    rw [Nat.sub_add_cancel hlo]
    simp [answerAt, ha, hf]
  obtain ⟨t, hst, hat, htv, hta⟩ := init_begins ⟨hp, hr, ht⟩ hd (hok 0 hlo)
  have htp : t.params = s.params := congrArg HostView.params htv
  obtain ⟨hwiring, -⟩ := params_values hwf
  have hj : j < 24 := by omega
  obtain ⟨u, hu, huv⟩ := hat.plan_fail (j := j) (initPlan_requests c b) (htp ▸ hwiring) hj
    (fun k hk => by rw [hta]; exact hok _ (by omega)) (by rw [hta]; exact hfail)
  obtain ⟨n, hrun, hwords⟩ := hst.trans hu
  rw [htv] at huv
  refine ⟨n, u, hrun, congrArg HostView.report huv, ?_, congrArg HostView.status huv, (congrArg HostView.phase huv).trans hp,
    (congrArg HostView.req huv).trans hr, congrArg HostView.task huv, congrArg HostView.todo huv, ?_, ?_⟩
  · exact congrArg (fun v : HostView => v.session.ready) huv
  · rw [hwords, ← framesBegun_init j hj, ← planWords_initPlan]
    rfl
  · have hut : u.trace = t.trace ++ _ := congrArg HostView.trace huv
    rw [htp, planBytes_initPlan hwf, show t.trace = s.trace from congrArg HostView.trace htv, failedWrites, ← List.append_assoc]
      at hut
    exact hut

end Sys2Proof.Machine
